-- ==== Sys2Proof/Word.lean ====
section
/-! DEFINITION. The widths this hardware treats as bits (00_scope.md R6): every value is unsigned. -/

namespace Sys2Proof

/-- A nibble: 4 bits, a value 0..15 (R6). -/
abbrev Nibble := BitVec 4

/-- A byte: 8 bits, a value 0..255 (R6); a character cell is one byte (R5 `CHAR_BITS`). -/
abbrev Byte := BitVec 8

/-- A 16-bit register: `CRC`, `UC` (R10). -/
abbrev Half := BitVec 16

/-- A 32-bit register: `TS` (R10). -/
abbrev Word := BitVec 32

end Sys2Proof
end

