-- ==== Sys2Proof/Syntax.lean ====
section
/-! DEFINITION. The commands: one constructor per row of spec/opcode_table.json, and the one format `C` of a command
word (30_encoding.md R60). A command has no operand fields: its operands are registers (R19, R60). -/

namespace Sys2Proof

/-- The five commands of R60. -/
inductive Instr where
  /-- `OTP` 0x01: decode and validate the token in `TOK` (R132). -/
  | otp
  /-- `MHDEC` 0x02: decode the token buffer into the byte buffer (R84). -/
  | mhdec
  /-- `MHENC` 0x03: encode the byte buffer into the token buffer (R85). -/
  | mhenc
  /-- `CRC16` 0x04: CRC of the byte buffer (R95). -/
  | crc16
  /-- `AESDEC` 0x05: decrypt one block (R112). -/
  | aesdec
  deriving DecidableEq, Repr

/-- Format `C` (R60): the two fields of a command word, any values. -/
structure FormatC where
  /-- Bits 7:3, "must be 00000". -/
  zero : BitVec 5
  /-- Bits 2:0, the command code. -/
  op : BitVec 3
  deriving DecidableEq, Repr

end Sys2Proof
end

