-- ==== Sys2Proof/WellFormed.lean ====
section
/-! DEFINITION. Which fields of format `C` make a command word (R60, R61). `Instr` itself has no operand fields, so every
check stands on the raw word's fields. -/

namespace Sys2Proof

/-- Field `zero` "must be 00000" (R60). -/
def FormatC.zeroOk (f : FormatC) : Bool := f.zero == 0

/-- Field `op` is one of the five command codes 1..5; 0, 6 and 7 are reserved (R60, R61). -/
def FormatC.opOk (f : FormatC) : Bool := decide (1 ≤ f.op.toNat) && decide (f.op.toNat ≤ 5)

/-- The fields of a legal command word. -/
def FormatC.wellFormed (f : FormatC) : Bool := f.zeroOk && f.opOk

end Sys2Proof
end

