-- ==== Sys2Proof/Decode.lean ====
section
/-! DEFINITION. Decoding a command word, total on all 256 bytes and rejecting by name (R60, R61), the encoder, and the
host's table entry point. -/

namespace Sys2Proof

/-- Why a byte is no command word (R61): it is one of the 251 reserved words. -/
inductive DecodeError where
  /-- A bit of 7:3 is set: 0x08 to 0xFF. -/
  | zeroFieldSet (zero : BitVec 5)
  /-- The code is 0, 6 or 7: 0x00, 0x06, 0x07. -/
  | reservedOp (op : BitVec 3)
  deriving DecidableEq, Repr

/-- The fields of a word: `zero` is bits 7:3, `op` bits 2:0 (R60). -/
def fieldsOf (w : Byte) : FormatC := { zero := w.extractLsb' 3 5, op := w.extractLsb' 0 3 }

/-- The word of two fields (R60). -/
def FormatC.word (f : FormatC) : Byte := f.zero ++ f.op

/-- The command a code stands for (R60); none for the reserved codes 0, 6, 7 (R61). -/
def instrOfOp (op : BitVec 3) : Option Instr :=
  match op.toNat with
  | 1 => some .otp
  | 2 => some .mhdec
  | 3 => some .mhenc
  | 4 => some .crc16
  | 5 => some .aesdec
  | _ => none

/-- Decode a command word (R60, R61). -/
def decode (w : Byte) : Except DecodeError Instr :=
  let f := fieldsOf w
  if f.zeroOk then
    match instrOfOp f.op with
    | some i => .ok i
    | none => .error (.reservedOp f.op)
  else .error (.zeroFieldSet f.zero)

/-- The command code of each command (R60). -/
def opOf (i : Instr) : BitVec 3 :=
  match i with
  | .otp => 1
  | .mhdec => 2
  | .mhenc => 3
  | .crc16 => 4
  | .aesdec => 5

/-- The fields of a command's word (R60). -/
def formatOf (i : Instr) : FormatC := { zero := 0, op := opOf i }

/-- The command word of a command (R60). -/
def encode (i : Instr) : Byte := (formatOf i).word

/-- The instruction the decoder reads from the table's row of `nbits` bits `w`: a command word is one byte, the first,
and bits of `w` at `nbits` and above do not belong to the row. -/
def decodeTableWord (nbits w : Nat) : Option Instr :=
  match decode (BitVec.ofNat 8 (w % 2 ^ nbits)) with
  | .ok i => some i
  | .error _ => none

end Sys2Proof
end

