-- ==== Sys2Proof/Config.lean ====
section
/-! DEFINITION. The implementation parameters of 00_scope.md R5 and the values this hardware takes. The two OPEN
parameters `BUS` and `PHASE_LATENCY` have no definition: no rule depends on either (notes/assumptions/14.md). -/

namespace Sys2Proof.Config

/-- `ID_LEN` (R5): bytes in either device identity. -/
def idLen : Nat := 6
/-- `BLOCK_LEN` (R5): bytes in one cipher block. -/
def blockLen : Nat := 16
/-- `KEY_LEN` (R5): bytes in the Shared Secret Key. -/
def keyLen : Nat := 16
/-- `TOKEN_BYTES` (R5): bytes a valid token decodes to. -/
def tokenBytes : Nat := 22
/-- `TOKEN_CHARS` (R5): characters of a valid token. -/
def tokenChars : Nat := 44
/-- `TOKEN_MAX` (R5): capacity of `TOK`. -/
def tokenMax : Nat := 48
/-- `BUF_MAX` (R5): capacity of `BUF`. -/
def bufMax : Nat := 24
/-- `REG_SPACE` (R5): bytes of the host-visible register space. -/
def regSpace : Nat := 256
/-- `CRC_POLY` (R5): the reflected polynomial. -/
def crcPoly : Half := 0x8408
/-- `CRC_INIT` (R5): the initial value of the CRC register. -/
def crcInit : Half := 0xFFFF
/-- `CRC_RESIDUE` (R5): the value a valid 16-byte payload must give. -/
def crcResidue : Half := 0xF0B8

end Sys2Proof.Config
end

