-- ==== Sys2Proof/Machine/State.lean ====
section
/-! DEFINITION. The state record of 10_state.md R10, the environment's side of R8 as plain data, the reasons a step can
stop, and the state after reset (R29). -/

namespace Sys2Proof.Machine

/-- The sequencer's position, `PHASE` (R22): exactly the legal codes 0..10 of R69 (93_implementation_defined.md U14 allows
such a type; notes/assumptions/8.md). -/
inductive Phase where
  | idle
  | pMhdec
  | pLen
  | pSplit
  | pPrefix
  | pAes
  | pUid
  | pCrc
  | pParse
  | pMhenc
  | pCrcbuf
  deriving DecidableEq, Repr

/-- The error kinds of R68 and R160. Code 0, "none", is the absence of one. -/
inductive ErrKind where
  | invalidEncoding
  | truncatedToken
  /-- Function layer only (R162). -/
  | invalidKeyLength
  /-- Function layer only (R162). -/
  | invalidBlockLength
  | unknownDevice
  | identityMismatch
  | integrityCheckFailed
  | illegalCommand
  deriving DecidableEq, Repr

/-- "The whole state of one block is the record below and nothing else" (R10). -/
structure Regs where
  /-- `TOK`, the token characters (R11). -/
  tok : Vector Byte 48
  /-- `TOKLEN`, how many of them are the token (R11). -/
  toklen : BitVec 6
  /-- `BUF`, the byte buffer (R12). -/
  buf : Vector Byte 24
  /-- `BUFLEN`, how many of its bytes are valid (R12). -/
  buflen : BitVec 5
  /-- `PID`, the expected Device Public Identity (R13). -/
  pid : Vector Byte 6
  /-- `UID`, the expected Device Internal Identity (R13). -/
  uid : Vector Byte 6
  /-- `KEY`, the Shared Secret Key (R14). -/
  key : Vector Byte 16
  /-- `CT`, the ciphertext block (R15). -/
  ct : Vector Byte 16
  /-- `PT`, the plaintext block (R16). -/
  pt : Vector Byte 16
  /-- `CRC`, the last CRC computed (R17). -/
  crc : Half
  /-- `UC`, the result field use_counter (R18). -/
  uc : Half
  /-- `SC`, the result field session_counter (R18). -/
  sc : Byte
  /-- `TS`, the result field timestamp (R18). -/
  ts : Word
  /-- `CMD`, the last command word accepted (R20). -/
  cmd : Byte
  /-- `PHASE` (R22). -/
  phase : Phase
  /-- `DONE` (R23). -/
  done : Bool
  /-- `OK` (R23). -/
  ok : Bool
  /-- `ERR` (R23); `none` is code 0. -/
  err : Option ErrKind
  deriving DecidableEq, Repr

/-- What the host still wants to do at the port (R47, R72), with addresses and data as numbers. -/
inductive HostOp where
  /-- `MemRead(addr, n)` (R140). -/
  | read (addr n : Nat)
  /-- `MemWrite(addr, n, v)`, byte `i` of `v` going to `addr + i` (R47, R141). -/
  | write (addr n v : Nat)
  /-- The polling loop `WAIT` of R72. -/
  | wait
  deriving DecidableEq, Repr

/-- Who makes the next step: the host, the block (R8), or the event `rst` (R180). -/
inductive Turn where
  | host
  | block
  | rst
  deriving DecidableEq, Repr

/-- One block and its surroundings. The registers are the spec's (R10); the three fields below are the MODEL's own and hold
what the surroundings do (notes/assumptions/1.md, 2.md, 3.md). -/
structure State extends Regs where
  /-- The accesses the host has not finished, oldest first. -/
  hostQueue : List HostOp
  /-- Who moves at each of the next steps; every interleaving R8 allows is some list. -/
  turns : List Turn
  /-- Every byte the host has read so far, oldest first. -/
  readData : List Byte
  deriving DecidableEq, Repr

/-- Why the machine stops. -/
inductive Fault where
  /-- Raised by the shared operation of all five commands (`runCommand`) and by the block's step, when `PHASE` names a
  phase that is not in the chain of the command in `CMD`. R143: "no other pair is reachable", so no reachable state raises
  it. SAFE: the model stops where the spec says no run comes (notes/assumptions/6.md). -/
  | noTransition (cmd : Byte) (phase : Phase)
  deriving DecidableEq, Repr

/-- What the model gives no meaning. -/
inductive Refusal where
  /-- An instruction without a meaning yet; raised by no arm now. SAFE: the model stops. -/
  | notModelled (mnemonic : String)
  /-- A host access with `addr + n > 256` or with an address wider than 8 bits (U6): R47 "a model refuses (gives no meaning to) an access that would pass 0xFF".
  Raised by the host's turn before the first byte is accessed. SAFE: the model stops (notes/assumptions/7.md). -/
  | accessPastEnd (addr n : Nat)
  deriving DecidableEq, Repr

/-- "After reset every bit of the state record is 0" (R29). -/
def Regs.reset : Regs where
  tok := Vector.replicate 48 0
  toklen := 0
  buf := Vector.replicate 24 0
  buflen := 0
  pid := Vector.replicate 6 0
  uid := Vector.replicate 6 0
  key := Vector.replicate 16 0
  ct := Vector.replicate 16 0
  pt := Vector.replicate 16 0
  crc := 0
  uc := 0
  sc := 0
  ts := 0
  cmd := 0
  phase := .idle
  done := false
  ok := false
  err := none

/-- The machine right after reset (R29), with surroundings that do nothing (notes/assumptions/13.md). -/
def State.reset : State where
  toRegs := Regs.reset
  hostQueue := []
  turns := []
  readData := []

/-- The same surroundings around other registers. -/
def State.withRegs (s : State) (r : Regs) : State := { s with toRegs := r }

end Sys2Proof.Machine
end

