-- ==== Sys2Proof/Machine/Operands.lean ====
section
/-! DEFINITION. Operand forms: byte-array registers read as sequences and written in part (R6, R7), little-endian
assembly (R6 `le16`, R43, R47), and the register runs the commands name. -/

namespace Sys2Proof.Machine

/-- Write `new[0..]` over the first elements of `old`, the rest unchanged; what does not fit is dropped. -/
def overwrite (new old : List Byte) : List Byte :=
  match new, old with
  | [], old => old
  | _ :: _, [] => []
  | b :: bs, _ :: rest => b :: overwrite bs rest

theorem overwrite_length (new old : List Byte) : (overwrite new old).length = old.length := by
  induction new generalizing old with
  | nil => rfl
  | cons b bs ih => cases old <;> simp [overwrite, ih]

/-- `for i in 0 .. len(bs)-1: X[i] <- bs[i]` on a byte-array register (R84, R85, R112, R123). -/
def store {n : Nat} (v : Vector Byte n) (bs : List Byte) : Vector Byte n :=
  ⟨Array.mk (overwrite bs v.toList), by simp [overwrite_length]⟩

/-- An array register with every byte 0 (R142 "clear"). -/
def zeros (n : Nat) : Vector Byte n := Vector.replicate n 0

/-- `X[i]` of a byte-array register (R6). -/
def cell {n : Nat} (v : Vector Byte n) (i : Nat) : Byte := v.toList.getD i 0

/-- `X[i] <- b` (R7). -/
def setCell {n : Nat} (v : Vector Byte n) (i : Nat) (b : Byte) : Vector Byte n :=
  ⟨Array.mk (v.toList.set i b), by simp⟩

/-- `X[a .. a + len - 1]`, a byte sequence (R6); it ends where the register ends (notes/assumptions/18.md). -/
def slice {n : Nat} (v : Vector Byte n) (a len : Nat) : List Byte := (v.toList.drop a).take len

/-- `le16(b0, b1)` = `(b1 << 8) | b0` (R6). -/
def le16 (b0 b1 : Byte) : Half := (b1.setWidth 16 <<< 8) ||| b0.setWidth 16

/-- Byte `i` of a scalar register in the map's little-endian order (R43). -/
def byteOf {w : Nat} (v : BitVec w) (i : Nat) : Byte := (v >>> (8 * i)).setWidth 8

/-- The number a little-endian run of bytes stands for (R47, R140). -/
def numberOf (bs : List Byte) : Nat :=
  match bs with
  | [] => 0
  | b :: rest => b.toNat + 256 * numberOf rest

/-- `TOK[0..TOKLEN-1]`: the token a command reads (R11). -/
def tokenText (r : Regs) : List Byte := slice r.tok 0 r.toklen.toNat

/-- `BUF[0..BUFLEN-1]`: the bytes `MHENC` and `CRC16` read (R12). -/
def bufBytes (r : Regs) : List Byte := slice r.buf 0 r.buflen.toNat

end Sys2Proof.Machine
end

