-- ==== Sys2Proof/Machine/Flags.lean ====
section
/-! DEFINITION. The codes of `PHASE` and `ERR` (R68, R69), the derived flags `BUSY` and `RES` (R23), the view `STATUS`
(R21) and the output `done_o` (R24). -/

namespace Sys2Proof.Machine

/-- The phase codes of R69. -/
def Phase.code (p : Phase) : BitVec 4 :=
  match p with
  | .idle => 0
  | .pMhdec => 1
  | .pLen => 2
  | .pSplit => 3
  | .pPrefix => 4
  | .pAes => 5
  | .pUid => 6
  | .pCrc => 7
  | .pParse => 8
  | .pMhenc => 9
  | .pCrcbuf => 10

/-- The error codes of R68. -/
def ErrKind.code (e : ErrKind) : BitVec 4 :=
  match e with
  | .invalidEncoding => 1
  | .truncatedToken => 2
  | .invalidKeyLength => 3
  | .invalidBlockLength => 4
  | .unknownDevice => 5
  | .identityMismatch => 6
  | .integrityCheckFailed => 7
  | .illegalCommand => 8

/-- The value of `ERR`: 0 when none (R10, R68). -/
def errCode (e : Option ErrKind) : BitVec 4 :=
  match e with
  | none => 0
  | some k => k.code

/-- `BUSY`: 1 iff `PHASE != 0` (R21). -/
def busy (r : Regs) : Bool := decide (r.phase ≠ .idle)

/-- `RES`: 1 iff `CRC = 0xF0B8` (R21). -/
def res (r : Regs) : Bool := decide (r.crc = Config.crcResidue)

/-- `STATUS` (R21): `ERR` in bits 7:4, then `RES`, `OK`, `DONE`, `BUSY` down to bit 0. -/
def status (r : Regs) : Byte :=
  errCode r.err ++ BitVec.ofBool (res r) ++ BitVec.ofBool r.ok ++ BitVec.ofBool r.done ++ BitVec.ofBool (busy r)

/-- The output signal `done_o`, "equals `DONE` at all times" (R24). -/
def doneOut (r : Regs) : Bool := r.done

end Sys2Proof.Machine
end

