-- ==== Sys2Proof/Machine/Ops.lean ====
section
/-! DEFINITION. The shared operations of the sequencer: how a command ends (R164, R165), how it starts (R142, R146), and
the one step every command is made of (R142 to R144). -/

namespace Sys2Proof.Machine

/-- `fail(E)`, the entry of every error (R164): "Nothing else changes". -/
def fail (e : ErrKind) (r : Regs) : Regs :=
  { r with err := some e, ok := false, done := true, phase := .idle }

/-- `complete()` (R165). -/
def complete (r : Regs) : Regs :=
  { r with err := none, ok := true, done := true, phase := .idle }

/-- START of a reserved word (R142, R146): `CMD` takes the word and the command ends at once as `IllegalCommand`. -/
def illegalCommand (w : Byte) (r : Regs) : Regs :=
  fail .illegalCommand { r with cmd := w }

/-- START of a legal command (R142): `CMD` takes the word, the flags are cleared, `clear` zeroes the command's output
registers (R19) and `PHASE` takes the command's first phase (R143). -/
def start (w : Byte) (first : Phase) (clear : Regs → Regs) (r : Regs) : Regs :=
  { clear r with cmd := w, done := false, ok := false, err := none, phase := first }

/-- What follows a phase that does not fail (R143). -/
inductive Next where
  /-- `PHASE <- p`. -/
  | goto (p : Phase)
  /-- `complete()`. -/
  | finish
  deriving DecidableEq, Repr

/-- End of a phase (R144): `x` is the register record with the phase's own writes, and the error it raises, if any. -/
def endPhase (n : Next) (x : Regs × Option ErrKind) : Regs :=
  match x.2, n with
  | some e, _ => fail e x.1
  | none, .goto p => { x.1 with phase := p }
  | none, .finish => complete x.1

/-- One step of a command: START when the block is idle (R142); the phase that `PHASE` names when this command is running
(R144), `chain` being the command's row of the transition table (R143); nothing when another command is running, whose
operands and `CMD` cannot be changed (R49, R145). A running command at a phase outside its chain has no successor in R143
(notes/assumptions/5.md, 6.md). -/
def runCommand (i : Instr) (first : Phase) (clear : Regs → Regs) (chain : Phase → Option (Regs → Regs)) (s : State) :
    Host.Outcome State Fault Refusal :=
  if s.phase = .idle then .next (s.withRegs (start (encode i) first clear s.toRegs))
  else if s.cmd = encode i then
    match chain s.phase with
    | some f => .next (s.withRegs (f s.toRegs))
    | none => .fault (.noTransition s.cmd s.phase)
  else .next s

/-- The event `rst` (R180): every register takes its reset value; the surroundings go on (notes/assumptions/13.md). -/
def resetBlock (s : State) : State := s.withRegs Regs.reset

end Sys2Proof.Machine
end

