-- ==== Sys2Proof/Machine/Aes.lean ====
section
/-! DEFINITION. The cipher unit (42_aes_decrypt.md): the AES-128 inverse cipher (R101 to R111, from general knowledge, the
spec's decision D13; notes/assumptions/11.md), the contract `decrypt_block` (R100) and the command `AESDEC` (R112). A block
is the list of its 16 bytes in block order: state byte `s[r][c]` is element `r + 4c` (R102). -/

namespace Sys2Proof.Machine

/-- `xtime(a)` = `a` times 0x02 in GF(2^8) (R103). -/
def xtime (a : Byte) : Byte := (a <<< 1) ^^^ (if a.getLsbD 7 then 0x1B else 0x00)

/-- `xtime` applied `n` times (R103). -/
def xtimes (n : Nat) (a : Byte) : Byte :=
  match n with
  | 0 => a
  | k + 1 => xtime (xtimes k a)

/-- The product in GF(2^8) (R103): "exclusive-or, over every bit i with b[i] = 1, of xtime applied i times to a". -/
def gmul (a b : Byte) : Byte :=
  [0, 1, 2, 3, 4, 5, 6, 7].foldl (fun acc i => if b.getLsbD i then acc ^^^ xtimes i a else acc) 0

/-! The table `SBOX` of R104, row = high nibble, four rows a definition. -/

def sboxRows0 : List (List Byte) :=
  [[0x63, 0x7C, 0x77, 0x7B, 0xF2, 0x6B, 0x6F, 0xC5, 0x30, 0x01, 0x67, 0x2B, 0xFE, 0xD7, 0xAB, 0x76],
   [0xCA, 0x82, 0xC9, 0x7D, 0xFA, 0x59, 0x47, 0xF0, 0xAD, 0xD4, 0xA2, 0xAF, 0x9C, 0xA4, 0x72, 0xC0],
   [0xB7, 0xFD, 0x93, 0x26, 0x36, 0x3F, 0xF7, 0xCC, 0x34, 0xA5, 0xE5, 0xF1, 0x71, 0xD8, 0x31, 0x15],
   [0x04, 0xC7, 0x23, 0xC3, 0x18, 0x96, 0x05, 0x9A, 0x07, 0x12, 0x80, 0xE2, 0xEB, 0x27, 0xB2, 0x75]]

def sboxRows1 : List (List Byte) :=
  [[0x09, 0x83, 0x2C, 0x1A, 0x1B, 0x6E, 0x5A, 0xA0, 0x52, 0x3B, 0xD6, 0xB3, 0x29, 0xE3, 0x2F, 0x84],
   [0x53, 0xD1, 0x00, 0xED, 0x20, 0xFC, 0xB1, 0x5B, 0x6A, 0xCB, 0xBE, 0x39, 0x4A, 0x4C, 0x58, 0xCF],
   [0xD0, 0xEF, 0xAA, 0xFB, 0x43, 0x4D, 0x33, 0x85, 0x45, 0xF9, 0x02, 0x7F, 0x50, 0x3C, 0x9F, 0xA8],
   [0x51, 0xA3, 0x40, 0x8F, 0x92, 0x9D, 0x38, 0xF5, 0xBC, 0xB6, 0xDA, 0x21, 0x10, 0xFF, 0xF3, 0xD2]]

def sboxRows2 : List (List Byte) :=
  [[0xCD, 0x0C, 0x13, 0xEC, 0x5F, 0x97, 0x44, 0x17, 0xC4, 0xA7, 0x7E, 0x3D, 0x64, 0x5D, 0x19, 0x73],
   [0x60, 0x81, 0x4F, 0xDC, 0x22, 0x2A, 0x90, 0x88, 0x46, 0xEE, 0xB8, 0x14, 0xDE, 0x5E, 0x0B, 0xDB],
   [0xE0, 0x32, 0x3A, 0x0A, 0x49, 0x06, 0x24, 0x5C, 0xC2, 0xD3, 0xAC, 0x62, 0x91, 0x95, 0xE4, 0x79],
   [0xE7, 0xC8, 0x37, 0x6D, 0x8D, 0xD5, 0x4E, 0xA9, 0x6C, 0x56, 0xF4, 0xEA, 0x65, 0x7A, 0xAE, 0x08]]

def sboxRows3 : List (List Byte) :=
  [[0xBA, 0x78, 0x25, 0x2E, 0x1C, 0xA6, 0xB4, 0xC6, 0xE8, 0xDD, 0x74, 0x1F, 0x4B, 0xBD, 0x8B, 0x8A],
   [0x70, 0x3E, 0xB5, 0x66, 0x48, 0x03, 0xF6, 0x0E, 0x61, 0x35, 0x57, 0xB9, 0x86, 0xC1, 0x1D, 0x9E],
   [0xE1, 0xF8, 0x98, 0x11, 0x69, 0xD9, 0x8E, 0x94, 0x9B, 0x1E, 0x87, 0xE9, 0xCE, 0x55, 0x28, 0xDF],
   [0x8C, 0xA1, 0x89, 0x0D, 0xBF, 0xE6, 0x42, 0x68, 0x41, 0x99, 0x2D, 0x0F, 0xB0, 0x54, 0xBB, 0x16]]

/-! The table `ISBOX` of R105, laid out the same way. -/

def isboxRows0 : List (List Byte) :=
  [[0x52, 0x09, 0x6A, 0xD5, 0x30, 0x36, 0xA5, 0x38, 0xBF, 0x40, 0xA3, 0x9E, 0x81, 0xF3, 0xD7, 0xFB],
   [0x7C, 0xE3, 0x39, 0x82, 0x9B, 0x2F, 0xFF, 0x87, 0x34, 0x8E, 0x43, 0x44, 0xC4, 0xDE, 0xE9, 0xCB],
   [0x54, 0x7B, 0x94, 0x32, 0xA6, 0xC2, 0x23, 0x3D, 0xEE, 0x4C, 0x95, 0x0B, 0x42, 0xFA, 0xC3, 0x4E],
   [0x08, 0x2E, 0xA1, 0x66, 0x28, 0xD9, 0x24, 0xB2, 0x76, 0x5B, 0xA2, 0x49, 0x6D, 0x8B, 0xD1, 0x25]]

def isboxRows1 : List (List Byte) :=
  [[0x72, 0xF8, 0xF6, 0x64, 0x86, 0x68, 0x98, 0x16, 0xD4, 0xA4, 0x5C, 0xCC, 0x5D, 0x65, 0xB6, 0x92],
   [0x6C, 0x70, 0x48, 0x50, 0xFD, 0xED, 0xB9, 0xDA, 0x5E, 0x15, 0x46, 0x57, 0xA7, 0x8D, 0x9D, 0x84],
   [0x90, 0xD8, 0xAB, 0x00, 0x8C, 0xBC, 0xD3, 0x0A, 0xF7, 0xE4, 0x58, 0x05, 0xB8, 0xB3, 0x45, 0x06],
   [0xD0, 0x2C, 0x1E, 0x8F, 0xCA, 0x3F, 0x0F, 0x02, 0xC1, 0xAF, 0xBD, 0x03, 0x01, 0x13, 0x8A, 0x6B]]

def isboxRows2 : List (List Byte) :=
  [[0x3A, 0x91, 0x11, 0x41, 0x4F, 0x67, 0xDC, 0xEA, 0x97, 0xF2, 0xCF, 0xCE, 0xF0, 0xB4, 0xE6, 0x73],
   [0x96, 0xAC, 0x74, 0x22, 0xE7, 0xAD, 0x35, 0x85, 0xE2, 0xF9, 0x37, 0xE8, 0x1C, 0x75, 0xDF, 0x6E],
   [0x47, 0xF1, 0x1A, 0x71, 0x1D, 0x29, 0xC5, 0x89, 0x6F, 0xB7, 0x62, 0x0E, 0xAA, 0x18, 0xBE, 0x1B],
   [0xFC, 0x56, 0x3E, 0x4B, 0xC6, 0xD2, 0x79, 0x20, 0x9A, 0xDB, 0xC0, 0xFE, 0x78, 0xCD, 0x5A, 0xF4]]

def isboxRows3 : List (List Byte) :=
  [[0x1F, 0xDD, 0xA8, 0x33, 0x88, 0x07, 0xC7, 0x31, 0xB1, 0x12, 0x10, 0x59, 0x27, 0x80, 0xEC, 0x5F],
   [0x60, 0x51, 0x7F, 0xA9, 0x19, 0xB5, 0x4A, 0x0D, 0x2D, 0xE5, 0x7A, 0x9F, 0x93, 0xC9, 0x9C, 0xEF],
   [0xA0, 0xE0, 0x3B, 0x4D, 0xAE, 0x2A, 0xF5, 0xB0, 0xC8, 0xEB, 0xBB, 0x3C, 0x83, 0x53, 0x99, 0x61],
   [0x17, 0x2B, 0x04, 0x7E, 0xBA, 0x77, 0xD6, 0x26, 0xE1, 0x69, 0x14, 0x63, 0x55, 0x21, 0x0C, 0x7D]]

/-- A table's entry: row = high nibble of the argument, column = low nibble (R104, R105). -/
def tableAt (rows : List (List Byte)) (a : Byte) : Byte := (rows.getD (a.toNat / 16) []).getD (a.toNat % 16) 0

/-- `SBOX[a]` (R104). -/
def sbox (a : Byte) : Byte := tableAt (sboxRows0 ++ sboxRows1 ++ sboxRows2 ++ sboxRows3) a

/-- `ISBOX[a]` (R105). -/
def isbox (a : Byte) : Byte := tableAt (isboxRows0 ++ isboxRows1 ++ isboxRows2 ++ isboxRows3) a

/-- A key word `w[i] = (w.0, w.1, w.2, w.3)` (R106). -/
structure KeyWord where
  b0 : Byte
  b1 : Byte
  b2 : Byte
  b3 : Byte
  deriving DecidableEq, Repr

/-- Exclusive-or of key words, byte by byte (R106). -/
def xorWord (a b : KeyWord) : KeyWord := ⟨a.b0 ^^^ b.b0, a.b1 ^^^ b.b1, a.b2 ^^^ b.b2, a.b3 ^^^ b.b3⟩

/-- `RotWord`: rotate left by one byte (R106). -/
def rotWord (t : KeyWord) : KeyWord := ⟨t.b1, t.b2, t.b3, t.b0⟩

/-- `SubWord` (R106). -/
def subWord (t : KeyWord) : KeyWord := ⟨sbox t.b0, sbox t.b1, sbox t.b2, sbox t.b3⟩

/-- `RCON[j]` = `xtime` applied `j - 1` times to 0x01 (R106). -/
def rcon (j : Nat) : Byte := xtimes (j - 1) 0x01

/-- The change every fourth word gets: `RotWord`, `SubWord`, then `RCON[j]` into the first byte (R106). -/
def roundWord (j : Nat) (t : KeyWord) : KeyWord := xorWord (subWord (rotWord t)) ⟨rcon j, 0, 0, 0⟩

/-- `w[i] = w[i-4] ^ t`, from the earlier words, newest first (R106). -/
def nextWord (i : Nat) (ws : List KeyWord) : KeyWord :=
  let t := ws.getD 0 ⟨0, 0, 0, 0⟩
  xorWord (ws.getD 3 ⟨0, 0, 0, 0⟩) (if i % 4 = 0 then roundWord (i / 4) t else t)

/-- `n` more words from index `i` on, newest first (R106). -/
def expandFrom (n i : Nat) (ws : List KeyWord) : List KeyWord :=
  match n with
  | 0 => ws
  | k + 1 => expandFrom k (i + 1) (nextWord i ws :: ws)

/-- `w[i] = (KEY[4i], KEY[4i+1], KEY[4i+2], KEY[4i+3])` (R106). -/
def keyWord (key : List Byte) (i : Nat) : KeyWord :=
  ⟨key.getD (4 * i) 0, key.getD (4 * i + 1) 0, key.getD (4 * i + 2) 0, key.getD (4 * i + 3) 0⟩

/-- The key expansion: `w[0]` to `w[43]` (R106). -/
def keyExpansion (key : List Byte) : List KeyWord :=
  (expandFrom 40 4 [keyWord key 3, keyWord key 2, keyWord key 1, keyWord key 0]).reverse

/-- `rk[n][4c + r] = w[4n + c].r` (R106). -/
def roundKey (ws : List KeyWord) (n : Nat) : List Byte :=
  ((ws.drop (4 * n)).take 4).flatMap fun w => [w.b0, w.b1, w.b2, w.b3]

/-- `AddRoundKey` (R107). -/
def addRoundKey (s k : List Byte) : List Byte := List.zipWith (fun a b => a ^^^ b) s k

/-- The permutation `SRC` of R108. -/
def shiftSource : List Nat := [0, 13, 10, 7, 4, 1, 14, 11, 8, 5, 2, 15, 12, 9, 6, 3]

/-- `InvShiftRows` (R108): "output block index `j` takes its byte from input block index `SRC[j]`". -/
def invShiftRows (s : List Byte) : List Byte := shiftSource.map fun j => s.getD j 0

/-- `InvSubBytes` (R109). -/
def invSubBytes (s : List Byte) : List Byte := s.map isbox

/-- `InvMixColumns` of one column (R110). -/
def invMixColumn (a0 a1 a2 a3 : Byte) : List Byte :=
  [gmul 0x0E a0 ^^^ gmul 0x0B a1 ^^^ gmul 0x0D a2 ^^^ gmul 0x09 a3,
   gmul 0x09 a0 ^^^ gmul 0x0E a1 ^^^ gmul 0x0B a2 ^^^ gmul 0x0D a3,
   gmul 0x0D a0 ^^^ gmul 0x09 a1 ^^^ gmul 0x0E a2 ^^^ gmul 0x0B a3,
   gmul 0x0B a0 ^^^ gmul 0x0D a1 ^^^ gmul 0x09 a2 ^^^ gmul 0x0E a3]

/-- `InvMixColumns` (R110): each column, four bytes of the block. -/
def invMixColumns (s : List Byte) : List Byte :=
  match s with
  | a0 :: a1 :: a2 :: a3 :: rest => invMixColumn a0 a1 a2 a3 ++ invMixColumns rest
  | _ => []

/-- One of the rounds 9..1 (R111). -/
def invRound (k s : List Byte) : List Byte := invMixColumns (addRoundKey (invSubBytes (invShiftRows s)) k)

/-- The rounds `n` down to 1 (R111). -/
def invRounds (ws : List KeyWord) (n : Nat) (s : List Byte) : List Byte :=
  match n with
  | 0 => s
  | k + 1 => invRounds ws k (invRound (roundKey ws (k + 1)) s)

/-- The inverse cipher (R111). DESIGN CHOICE: a byte past the end of a shorter list is 0 (notes/assumptions/24.md);
`decryptBlock` never asks for one. -/
def invCipher (key ct : List Byte) : List Byte :=
  let ws := keyExpansion key
  let s := invRounds ws 9 (addRoundKey ct (roundKey ws 10))
  addRoundKey (invSubBytes (invShiftRows s)) (roundKey ws 0)

/-- `decrypt_block` over byte sequences of any length (R100): the key's length is tested first. -/
def decryptBlock (key ct : List Byte) : Except ErrKind (List Byte) :=
  if key.length ≠ Config.keyLen then .error .invalidKeyLength
  else if ct.length ≠ Config.blockLen then .error .invalidBlockLength
  else .ok (invCipher key ct)

/-- The body of phase `P_AES` (R112, R125), shared by `AESDEC` and `OTP`. -/
def phaseAes (r : Regs) : Regs × Option ErrKind :=
  match decryptBlock r.key.toList r.ct.toList with
  | .error e => (r, some e)
  | .ok p => ({ r with pt := store r.pt p }, none)

/-- What START of `AESDEC` clears (R19, R112). -/
def clearAesdec (r : Regs) : Regs := { r with pt := zeros 16 }

/-- `AESDEC` in the transition table (R143). -/
def chainAesdec (p : Phase) : Option (Regs → Regs) :=
  match p with
  | .pAes => some fun r => endPhase .finish (phaseAes r)
  | .idle | .pMhdec | .pLen | .pSplit | .pPrefix | .pUid | .pCrc | .pParse | .pMhenc | .pCrcbuf => none

/-- The command `AESDEC` (R112). -/
def execAesdec (s : State) : Host.Outcome State Fault Refusal :=
  runCommand .aesdec .pAes clearAesdec chainAesdec s

end Sys2Proof.Machine
end

