-- ==== Sys2Proof/Machine/Crc.lean ====
section
/-! DEFINITION. The CRC unit (41_crc16.md): the algorithm (R91 to R93), the validity check (R94) and the command `CRC16`
(R95). -/

namespace Sys2Proof.Machine

/-- The bit step (R92): the low bit is tested before the shift. -/
def crcBit (r : Half) : Half :=
  if r.getLsbD 0 then (r >>> 1) ^^^ Config.crcPoly else r >>> 1

/-- The bit step repeated `n` times. -/
def crcBits (n : Nat) (r : Half) : Half :=
  match n with
  | 0 => r
  | k + 1 => crcBits k (crcBit r)

/-- The byte step (R92): the byte is exclusive-ored into the low 8 bits, then 8 bit steps. -/
def crcByte (r : Half) (b : Byte) : Half := crcBits 8 (r ^^^ b.setWidth 16)

/-- `crc16` (R90 to R93): the bytes in ascending order from the initial value, no final exclusive-or. -/
def crc16 (d : List Byte) : Half := d.foldl crcByte Config.crcInit

/-- The validity check of a payload (R94). -/
def crcValid (d : List Byte) : Bool := decide (crc16 d = Config.crcResidue)

/-- The body of phase `P_CRCBUF` (R95). -/
def phaseCrcbuf (r : Regs) : Regs × Option ErrKind :=
  ({ r with crc := crc16 (bufBytes r) }, none)

/-- What START of `CRC16` clears (R19, R95). -/
def clearCrc16 (r : Regs) : Regs := { r with crc := 0 }

/-- `CRC16` in the transition table (R143). -/
def chainCrc16 (p : Phase) : Option (Regs → Regs) :=
  match p with
  | .pCrcbuf => some fun r => endPhase .finish (phaseCrcbuf r)
  | .idle | .pMhdec | .pLen | .pSplit | .pPrefix | .pAes | .pUid | .pCrc | .pParse | .pMhenc => none

/-- The command `CRC16` (R95). -/
def execCrc16 (s : State) : Host.Outcome State Fault Refusal :=
  runCommand .crc16 .pCrcbuf clearCrc16 chainCrc16 s

end Sys2Proof.Machine
end

