-- ==== Sys2Proof/Machine/Modhex.lean ====
section
/-! DEFINITION. The modhex unit (40_modhex.md): the alphabet (R62, R63), the two functions (R81, R82) and the commands
`MHDEC` (R84) and `MHENC` (R85). -/

namespace Sys2Proof.Machine

/-- The alphabet `cbdefghijklnrtuv` (R5, R62): the character code of each symbol, its position being its nibble. The codes
are ASCII, from general knowledge (93_implementation_defined.md G2; notes/assumptions/12.md). -/
def alphabet : List Byte :=
  [0x63, 0x62, 0x64, 0x65, 0x66, 0x67, 0x68, 0x69] ++ [0x6A, 0x6B, 0x6C, 0x6E, 0x72, 0x74, 0x75, 0x76]

/-- `mh_sym(n)` (R62). -/
def mhSym (n : Nibble) : Byte := alphabet.getD n.toNat 0

/-- `mh_val(ch)` (R62); none when `ch` is outside the alphabet (R63). -/
def mhVal (ch : Byte) : Option Nibble :=
  match alphabet.findIdx? (fun c => decide (c = ch)) with
  | some n => some (BitVec.ofNat 4 n)
  | none => none

/-- Whether a character code is one of the 16 symbols (R62, R63). -/
def inAlphabet (ch : Byte) : Bool := (mhVal ch).isSome

/-- One byte of two characters: `(mh_val(hi) << 4) | mh_val(lo)` (R64). -/
def packByte (hi lo : Byte) : Byte :=
  (((mhVal hi).getD 0).setWidth 8 <<< 4) ||| ((mhVal lo).getD 0).setWidth 8

/-- The bytes of the character pairs of a text (R64); a last single character makes no byte. -/
def packPairs (t : List Byte) : List Byte :=
  match t with
  | hi :: lo :: rest => packByte hi lo :: packPairs rest
  | _ => []

/-- `modhex_decode` (R81): the characters are tested first, then the length. -/
def modhexDecode (t : List Byte) : Except ErrKind (List Byte) :=
  if t.all inAlphabet then
    if t.length % 2 = 1 then .error .invalidEncoding else .ok (packPairs t)
  else .error .invalidEncoding

/-- `modhex_encode` (R82): two characters for each byte, bits 7:4 first. -/
def modhexEncode (bs : List Byte) : List Byte :=
  bs.flatMap fun b => [mhSym (b.extractLsb' 4 4), mhSym (b.extractLsb' 0 4)]

/-- The body of phase `P_MHDEC` (R84, R121), shared by `MHDEC` and `OTP`. -/
def phaseMhdec (r : Regs) : Regs × Option ErrKind :=
  match modhexDecode (tokenText r) with
  | .error e => (r, some e)
  | .ok bs => ({ r with buf := store r.buf bs, buflen := BitVec.ofNat 5 bs.length }, none)

/-- The body of phase `P_MHENC` (R85). -/
def phaseMhenc (r : Regs) : Regs × Option ErrKind :=
  let t := modhexEncode (bufBytes r)
  ({ r with tok := store r.tok t, toklen := BitVec.ofNat 6 t.length }, none)

/-- What START of `MHDEC` clears (R19, R84). -/
def clearMhdec (r : Regs) : Regs := { r with buf := zeros 24, buflen := 0 }

/-- What START of `MHENC` clears (R19, R85). -/
def clearMhenc (r : Regs) : Regs := { r with tok := zeros 48, toklen := 0 }

/-- `MHDEC` in the transition table (R143). -/
def chainMhdec (p : Phase) : Option (Regs → Regs) :=
  match p with
  | .pMhdec => some fun r => endPhase .finish (phaseMhdec r)
  | .idle | .pLen | .pSplit | .pPrefix | .pAes | .pUid | .pCrc | .pParse | .pMhenc | .pCrcbuf => none

/-- `MHENC` in the transition table (R143). -/
def chainMhenc (p : Phase) : Option (Regs → Regs) :=
  match p with
  | .pMhenc => some fun r => endPhase .finish (phaseMhenc r)
  | .idle | .pMhdec | .pLen | .pSplit | .pPrefix | .pAes | .pUid | .pCrc | .pParse | .pCrcbuf => none

/-- The command `MHDEC` (R84). -/
def execMhdec (s : State) : Host.Outcome State Fault Refusal :=
  runCommand .mhdec .pMhdec clearMhdec chainMhdec s

/-- The command `MHENC` (R85). -/
def execMhenc (s : State) : Host.Outcome State Fault Refusal :=
  runCommand .mhenc .pMhenc clearMhenc chainMhenc s

end Sys2Proof.Machine
end

