-- ==== Sys2Proof/Machine/Token.lean ====
section
/-! DEFINITION. The token pipeline and payload parser (43_otp_token.md): `decode_token` (R120), the phases of `OTP` (R121
to R128) and the command itself (R132). -/

namespace Sys2Proof.Machine

/-- The Decoded Result (R9, R120). -/
structure DecodedResult where
  useCounter : Half
  sessionCounter : Byte
  timestamp : Word
  deriving DecidableEq, Repr

/-- `timestamp = (zext_32(ts0) << 16) | zext_32(ts1)` from the plaintext bytes 8, 9, 10 (R67). -/
def timestampOf (p8 p9 p10 : Byte) : Word := (p10.setWidth 32 <<< 16) ||| (le16 p8 p9).setWidth 32

/-- Steps 8 and 9 of R120: the fields of a plaintext block (R67). DESIGN CHOICE: a byte past the end of a shorter list is 0
(notes/assumptions/24.md). -/
def parsePayload (p : List Byte) : DecodedResult where
  useCounter := le16 (p.getD 6 0) (p.getD 7 0)
  sessionCounter := p.getD 11 0
  timestamp := timestampOf (p.getD 8 0) (p.getD 9 0) (p.getD 10 0)

/-- `decode_token(token, expected_identity, expected_internal_id, key)` (R120): the first failing step decides. DESIGN CHOICE: an
expected identity that is not 6 bytes, which R120 does not speak of, differs from every 6-byte one and so gives
`UnknownDevice` or `IdentityMismatch` (notes/assumptions/22.md). DEDUCED: the error of `decrypt_block` for a key that is not 16
bytes (R100) is the answer (23.md). -/
def decodeToken (token pid uid key : List Byte) : Except ErrKind DecodedResult :=
  match modhexDecode token with
  | .error e => .error e
  | .ok buf =>
    if buf.length ≠ Config.tokenBytes then .error .truncatedToken
    else if buf.take 6 ≠ pid then .error .unknownDevice
    else
      match decryptBlock key ((buf.drop 6).take 16) with
      | .error e => .error e
      | .ok pt =>
        if pt.take 6 ≠ uid then .error .identityMismatch
        else if crc16 (pt.take 16) ≠ Config.crcResidue then .error .integrityCheckFailed
        else .ok (parsePayload pt)

/-- The body of phase `P_LEN` (R122). -/
def phaseLen (r : Regs) : Regs × Option ErrKind :=
  (r, if r.buflen.toNat ≠ Config.tokenBytes then some .truncatedToken else none)

/-- The body of phase `P_SPLIT` (R123): `CT[i] <- BUF[6 + i]`. -/
def phaseSplit (r : Regs) : Regs × Option ErrKind :=
  ({ r with ct := store r.ct (slice r.buf 6 16) }, none)

/-- The body of phase `P_PREFIX` (R124): all 6 bytes are compared. -/
def phasePrefix (r : Regs) : Regs × Option ErrKind :=
  (r, if slice r.buf 0 6 ≠ r.pid.toList then some .unknownDevice else none)

/-- The body of phase `P_UID` (R126). -/
def phaseUid (r : Regs) : Regs × Option ErrKind :=
  (r, if slice r.pt 0 6 ≠ r.uid.toList then some .identityMismatch else none)

/-- The body of phase `P_CRC` (R127): `CRC` is written before the test, in both outcomes. -/
def phaseCrc (r : Regs) : Regs × Option ErrKind :=
  let c := crc16 r.pt.toList
  ({ r with crc := c }, if c ≠ Config.crcResidue then some .integrityCheckFailed else none)

/-- The body of phase `P_PARSE` (R128). -/
def phaseParse (r : Regs) : Regs × Option ErrKind :=
  let d := parsePayload r.pt.toList
  ({ r with uc := d.useCounter, sc := d.sessionCounter, ts := d.timestamp }, none)

/-- What START of `OTP` clears (R19, R132). -/
def clearOtp (r : Regs) : Regs :=
  { r with buf := zeros 24, buflen := 0, ct := zeros 16, pt := zeros 16, crc := 0, uc := 0, sc := 0, ts := 0 }

/-- `OTP` in the transition table (R143). -/
def chainOtp (p : Phase) : Option (Regs → Regs) :=
  match p with
  | .pMhdec => some fun r => endPhase (.goto .pLen) (phaseMhdec r)
  | .pLen => some fun r => endPhase (.goto .pSplit) (phaseLen r)
  | .pSplit => some fun r => endPhase (.goto .pPrefix) (phaseSplit r)
  | .pPrefix => some fun r => endPhase (.goto .pAes) (phasePrefix r)
  | .pAes => some fun r => endPhase (.goto .pUid) (phaseAes r)
  | .pUid => some fun r => endPhase (.goto .pCrc) (phaseUid r)
  | .pCrc => some fun r => endPhase (.goto .pParse) (phaseCrc r)
  | .pParse => some fun r => endPhase .finish (phaseParse r)
  | .idle | .pMhenc | .pCrcbuf => none

/-- The command `OTP` (R132). -/
def execOtp (s : State) : Host.Outcome State Fault Refusal :=
  runCommand .otp .pMhdec clearOtp chainOtp s

end Sys2Proof.Machine
end

