-- ==== Sys2Proof/Machine/Dispatch.lean ====
section
/-! DEFINITION. One arm per command. -/

namespace Sys2Proof.Machine

/-- One step of a command in a state: START when the block is idle, its next phase when it is the one running (R142, R144). -/
def exec (i : Instr) (s : State) : Host.Outcome State Fault Refusal :=
  match i with
  | .otp => Sys2Proof.Machine.execOtp s
  | .mhdec => Sys2Proof.Machine.execMhdec s
  | .mhenc => Sys2Proof.Machine.execMhenc s
  | .crc16 => Sys2Proof.Machine.execCrc16 s
  | .aesdec => Sys2Proof.Machine.execAesdec s

end Sys2Proof.Machine
end

