-- ==== Sys2Proof/Machine/RegisterMap.lean ====
section
/-! DEFINITION. The register space (20_memory.md R40 to R43): 256 bytes that are a view of the registers, read by R140 and
written by R141. Nothing but the registers is stored (R10), so the space as a list of cells is computed, in one canonical
form. -/

namespace Sys2Proof.Machine

/-- The names of the register map (R41). -/
inductive Reg where
  | cmd | status | phase | toklen | buflen | pid | uid | crc | uc | sc | ts | key | ct | pt | buf | tok
  deriving DecidableEq, Repr

/-- One row of the register map (R41). -/
structure Region where
  reg : Reg
  base : Nat
  size : Nat
  /-- `RW` in the column "Host". -/
  writable : Bool
  deriving DecidableEq, Repr

/-- The register map (R41); an address in no row is reserved. -/
def registerMap : List Region :=
  [⟨.cmd, 0x00, 1, true⟩, ⟨.status, 0x01, 1, false⟩, ⟨.phase, 0x02, 1, false⟩, ⟨.toklen, 0x03, 1, true⟩] ++
  [⟨.buflen, 0x04, 1, true⟩, ⟨.pid, 0x08, 6, true⟩, ⟨.uid, 0x10, 6, true⟩, ⟨.crc, 0x18, 2, false⟩] ++
  [⟨.uc, 0x1A, 2, false⟩, ⟨.sc, 0x1C, 1, false⟩, ⟨.ts, 0x20, 4, false⟩, ⟨.key, 0x30, 16, true⟩] ++
  [⟨.ct, 0x40, 16, true⟩, ⟨.pt, 0x50, 16, false⟩, ⟨.buf, 0x60, 24, true⟩, ⟨.tok, 0x80, 48, true⟩]

/-- The row that holds an address, with the offset in it; none for a reserved address. -/
def locate (a : Byte) : Option (Region × Nat) :=
  match registerMap.find? (fun g => decide (g.base ≤ a.toNat) && decide (a.toNat < g.base + g.size)) with
  | some g => some (g, a.toNat - g.base)
  | none => none

/-- Byte `i` of a register as the map shows it: scalars little-endian, arrays in index order (R43), reserved bits 0 (R42). -/
def readReg (r : Regs) (g : Reg) (i : Nat) : Byte :=
  match g with
  | .cmd => r.cmd
  | .status => status r
  | .phase => r.phase.code.setWidth 8
  | .toklen => r.toklen.setWidth 8
  | .buflen => r.buflen.setWidth 8
  | .pid => cell r.pid i
  | .uid => cell r.uid i
  | .crc => byteOf r.crc i
  | .uc => byteOf r.uc i
  | .sc => r.sc
  | .ts => byteOf r.ts i
  | .key => cell r.key i
  | .ct => cell r.ct i
  | .pt => cell r.pt i
  | .buf => cell r.buf i
  | .tok => cell r.tok i

/-- `MemRead(addr, 1)` (R140): the register byte, `STATUS` as composed by R21, 0x00 at a reserved address. -/
def readByte (r : Regs) (a : Byte) : Byte :=
  match locate a with
  | some (g, i) => readReg r g.reg i
  | none => 0x00

/-- Storing a byte in a register while the block is idle (R141): a length above the capacity is ignored as a whole byte
(R42), a read-only register ignores it. `CMD` is not stored here: writing it is START. -/
def writeReg (r : Regs) (g : Reg) (i : Nat) (b : Byte) : Regs :=
  match g with
  | .toklen => if b.toNat ≤ Config.tokenMax then { r with toklen := b.setWidth 6 } else r
  | .buflen => if b.toNat ≤ Config.bufMax then { r with buflen := b.setWidth 5 } else r
  | .pid => { r with pid := setCell r.pid i b }
  | .uid => { r with uid := setCell r.uid i b }
  | .key => { r with key := setCell r.key i b }
  | .ct => { r with ct := setCell r.ct i b }
  | .buf => { r with buf := setCell r.buf i b }
  | .tok => { r with tok := setCell r.tok i b }
  | .cmd | .status | .phase | .crc | .uc | .sc | .ts | .pt => r

/-- `MemWrite(addr, 1, b)` while not busy, at an address other than 0x00 (R141): reserved addresses ignore it (R42). -/
def writeByte (r : Regs) (a : Byte) (b : Byte) : Regs :=
  match locate a with
  | some (g, i) => writeReg r g.reg i b
  | none => r

/-- The accesses that have a meaning: an 8-bit address, and `addr + n <= 256` (R47, U6). -/
abbrev accessOk (addr n : Nat) : Prop := addr < Config.regSpace ∧ addr + n ≤ Config.regSpace

/-- `MemRead(addr, n)` with nothing between its bytes (R47, R140): the result "assembled little-endian"; no meaning past
0xFF or at a wider address (U6). -/
def memRead (r : Regs) (addr n : Nat) : Option Nat :=
  if accessOk addr n then
    some (numberOf ((List.range n).map fun i => readByte r (BitVec.ofNat 8 (addr + i))))
  else none

/-- The canonical form of a list of cells: addresses strictly rising, and no cell with the byte 0x00, which is what an
unlisted address reads as. -/
abbrev Memory.wf (m : List Host.Cell) : Prop := m.Pairwise (fun c d => c.1 < d.1) ∧ ∀ c ∈ m, c.2 ≠ 0

/-- One byte of a list of cells; an unlisted address reads 0x00. -/
def Memory.read (m : List Host.Cell) (a : Nat) : Byte :=
  match m.find? (fun c => decide (c.1 = a)) with
  | some c => c.2
  | none => 0x00

/-- The whole register space as cells (R40): a view, computed from the registers. -/
def memoryOf (r : Regs) : List Host.Cell :=
  ((List.range Config.regSpace).map fun a => (a, readByte r (BitVec.ofNat 8 a))).filter fun c => decide (c.2 ≠ 0)

end Sys2Proof.Machine
end

