-- ==== Sys2Proof/Machine/Port.lean ====
section
/-! DEFINITION. The steps of the agents (R8): a host access of one byte (R140, R141), START (R142), the block's step (R144)
and reset (R180). -/

namespace Sys2Proof.Machine

/-- `START(w)` (R142): a legal word starts its command, a reserved word ends at once as `IllegalCommand` (R146). The command
word is sampled here, once (R55). -/
def startWord (w : Byte) (s : State) : Host.Outcome State Fault Refusal :=
  match decode w with
  | .ok i => exec i s
  | .error _ => .next (s.withRegs (illegalCommand w s.toRegs))

/-- `MemWrite(addr, 1, b)` (R141): ignored while busy (R49); START at address 0x00; otherwise the byte is stored. -/
def hostWriteByte (a b : Byte) (s : State) : Host.Outcome State Fault Refusal :=
  if s.phase ≠ .idle then .next s
  else if a = 0x00 then startWord b s
  else .next (s.withRegs (writeByte s.toRegs a b))

/-- `MemRead(addr, 1)` (R140): the byte goes to the host; no register changes (R50). -/
def hostReadByte (a : Byte) (s : State) : State :=
  { s with readData := s.readData ++ [readByte s.toRegs a] }

/-- The reads still to make after the first byte of `MemRead(addr, n + 1)` (R47). -/
def restOfRead (addr n : Nat) (q : List HostOp) : List HostOp :=
  if n = 0 then q else .read (addr + 1) n :: q

/-- The writes still to make after the first byte of `MemWrite(addr, n + 1, v)`: the next byte of `v` is bits 15:8 (R47).
DESIGN CHOICE: after a first byte that was START each later byte finds the block as it then is, ignored while the command
runs, stored if it has ended meanwhile (R141, R47; notes/assumptions/20.md). -/
def restOfWrite (addr n v : Nat) (q : List HostOp) : List HostOp :=
  if n = 0 then q else .write (addr + 1) n (v / 256) :: q

/-- One step of the host (R8): one byte of its oldest unfinished access (R47). An access that would pass 0xFF, or whose
address is wider than 8 bits, has no meaning (R47, U6; notes/assumptions/7.md). An access of no bytes is dropped (16.md).
`WAIT` reads `STATUS` once and goes on when bit 1 of it is 1 (R72; 17.md). A host that wants nothing changes nothing, and so does an idle block's turn (4.md). -/
def hostStep (s : State) : Host.Outcome State Fault Refusal :=
  match s.hostQueue with
  | [] => .next s
  | .read addr n :: q =>
    if accessOk addr n then
      match n with
      | 0 => .next { s with hostQueue := q }
      | k + 1 => .next (hostReadByte (BitVec.ofNat 8 addr) { s with hostQueue := restOfRead addr k q })
    else .refused (.accessPastEnd addr n)
  | .write addr n v :: q =>
    if accessOk addr n then
      match n with
      | 0 => .next { s with hostQueue := q }
      | k + 1 => hostWriteByte (BitVec.ofNat 8 addr) (BitVec.ofNat 8 v) { s with hostQueue := restOfWrite addr k v q }
    else .refused (.accessPastEnd addr n)
  | .wait :: q =>
    .next (hostReadByte 0x01 { s with hostQueue := if (readByte s.toRegs 0x01).getLsbD 1 then q else .wait :: q })

/-- One step of the block (R144): the phase that `PHASE` names, of the command in `CMD`; no step while idle. -/
def blockStep (s : State) : Host.Outcome State Fault Refusal :=
  if s.phase = .idle then .next s
  else
    match decode s.cmd with
    | .ok i => exec i s
    | .error _ => .fault (.noTransition s.cmd s.phase)

/-- One step of the machine: the agent whose turn it is moves (R8). When the list of turns has ended, a busy block moves
(R144 "always enabled") and otherwise the host does (notes/assumptions/1.md). So with no turns listed a command that the
first byte of a longer write started has ended before the next byte of that write (20.md). -/
def takeTurn (s : State) : Host.Outcome State Fault Refusal :=
  match s.turns with
  | .host :: ts => hostStep { s with turns := ts }
  | .block :: ts => blockStep { s with turns := ts }
  | .rst :: ts => .next (resetBlock { s with turns := ts })
  | [] => if s.phase = .idle then hostStep s else blockStep s

/-- The surroundings that make the very next step START the command word `w`: an idle block, and the host's turn to write
`w` to address 0x00 (notes/assumptions/2.md). -/
def withStart (s : State) (w : Nat) : State :=
  { s with phase := .idle, hostQueue := .write 0x00 1 w :: s.hostQueue, turns := .host :: s.turns }

end Sys2Proof.Machine
end

