-- ==== Sys2Proof/Machine/Step.lean ====
section
/-! DEFINITION. The one step function, and where it finds its next instruction. -/

namespace Sys2Proof.Machine

/-- One step of the machine (R8). -/
def step (s : State) : Host.Outcome State Fault Refusal := takeTurn s

/-- `s` with the table's row of `nbits` bits `w` where the next step takes its instruction from: the host's next write to
`CMD` (R20, R142). A command word is one byte. -/
def State.withFetchWord (s : State) (nbits w : Nat) : State := withStart s (w % 2 ^ nbits % 256)

end Sys2Proof.Machine
end

