-- ==== Sys2Proof/Safety.lean ====
section
/-! DEFINITION. What counts as a safe run: the invariants of reachable register records (R25 and what the pipeline of R132
keeps), the accesses that have a meaning (R47), and the host's duties of 70_reset_and_hazards.md and R171 that are
predicates. -/

namespace Sys2Proof.Machine

/-- Which commands can be running at a phase: the pairs of the transition table (R143). -/
def runsAt (cmd : Byte) (p : Phase) : Bool :=
  match p with
  | .idle => false
  | .pMhdec => decide (cmd = 0x01 ∨ cmd = 0x02)
  | .pAes => decide (cmd = 0x01 ∨ cmd = 0x05)
  | .pLen | .pSplit | .pPrefix | .pUid | .pCrc | .pParse => decide (cmd = 0x01)
  | .pMhenc => decide (cmd = 0x03)
  | .pCrcbuf => decide (cmd = 0x04)

/-- The invariants of R25. Item 4, "holds exactly from reset until the first START", is said of the registers: what no host
write can reach still has its reset value. -/
structure ControlInv (r : Regs) : Prop where
  /-- R25 item 1. -/
  ok_done : r.ok = true → r.done = true ∧ r.err = none
  /-- R25 item 2. -/
  failed_err : r.done = true → r.ok = false → r.err ≠ none
  /-- R25 item 3, and the pairs of R143. -/
  busy_clear : r.phase ≠ .idle → r.done = false ∧ r.ok = false ∧ r.err = none ∧ runsAt r.cmd r.phase = true
  /-- R25 item 4. -/
  fresh : r.phase = .idle → r.done = false →
    r.cmd = 0 ∧ r.ok = false ∧ r.err = none ∧ r.pt = zeros 16 ∧ r.crc = 0 ∧ r.uc = 0 ∧ r.sc = 0 ∧ r.ts = 0
  /-- R25 item 5. -/
  toklen_le : r.toklen.toNat ≤ 48
  /-- R25 item 5. -/
  buflen_le : r.buflen.toNat ≤ 24
  /-- R25 item 5: `TS[31:24] = 0`. -/
  ts_high : r.ts.toNat < 2 ^ 24
  /-- R25 item 6. -/
  err_reachable : r.err ≠ some .invalidKeyLength ∧ r.err ≠ some .invalidBlockLength

/-- What the pipeline of `OTP` has established at each point (R121 to R128, R130, R132 end-state table): derived from those
rules. Every clause is about an `OTP`, so about `CMD = 0x01`. -/
structure PipelineInv (r : Regs) : Prop where
  /-- Nothing of the result exists while the command runs (R130). -/
  running_result : r.cmd = 0x01 → r.phase ≠ .idle → r.uc = 0 ∧ r.sc = 0 ∧ r.ts = 0
  /-- `BUF` is cleared until step 1 has run (R132). -/
  before_decode : r.cmd = 0x01 → r.phase = .pMhdec → r.buf = zeros 24 ∧ r.buflen = 0
  /-- "before any decryption is attempted" (R122): `CT` is cleared until step 3. -/
  before_split : r.cmd = 0x01 → r.phase = .pMhdec ∨ r.phase = .pLen ∨ r.phase = .pSplit → r.ct = zeros 16
  /-- Step 2 has passed (R122). -/
  after_len : r.cmd = 0x01 →
    r.phase = .pSplit ∨ r.phase = .pPrefix ∨ r.phase = .pAes ∨ r.phase = .pUid ∨ r.phase = .pCrc ∨ r.phase = .pParse →
    r.buflen = 22
  /-- Step 3 has run (R123). -/
  after_split : r.cmd = 0x01 →
    r.phase = .pPrefix ∨ r.phase = .pAes ∨ r.phase = .pUid ∨ r.phase = .pCrc ∨ r.phase = .pParse →
    r.ct.toList = slice r.buf 6 16
  /-- Step 4 has passed (R124). -/
  after_prefix : r.cmd = 0x01 → r.phase = .pAes ∨ r.phase = .pUid ∨ r.phase = .pCrc ∨ r.phase = .pParse →
    slice r.buf 0 6 = r.pid.toList
  /-- `PT` is cleared until step 5 (R132). -/
  before_aes : r.cmd = 0x01 →
    r.phase = .pMhdec ∨ r.phase = .pLen ∨ r.phase = .pSplit ∨ r.phase = .pPrefix ∨ r.phase = .pAes → r.pt = zeros 16
  /-- Step 5 has run (R125). -/
  after_aes : r.cmd = 0x01 → r.phase = .pUid ∨ r.phase = .pCrc ∨ r.phase = .pParse →
    decryptBlock r.key.toList r.ct.toList = .ok r.pt.toList
  /-- Step 6 has passed (R126). -/
  after_uid : r.cmd = 0x01 → r.phase = .pCrc ∨ r.phase = .pParse → slice r.pt 0 6 = r.uid.toList
  /-- `CRC` is cleared until step 7 (R126, R132). -/
  before_crc : r.cmd = 0x01 → r.phase ≠ .idle → r.phase ≠ .pParse → r.crc = 0
  /-- Step 7 has passed (R127). -/
  after_crc : r.cmd = 0x01 → r.phase = .pParse → r.crc = Config.crcResidue ∧ crc16 r.pt.toList = Config.crcResidue
  /-- A success: the fields are those of a payload whose CRC is right (R127, R128, R132). -/
  success : r.cmd = 0x01 → r.done = true → r.ok = true →
    r.crc = Config.crcResidue ∧ crc16 r.pt.toList = Config.crcResidue ∧
    r.uc = le16 (cell r.pt 6) (cell r.pt 7) ∧ r.sc = cell r.pt 11 ∧
    r.ts = timestampOf (cell r.pt 8) (cell r.pt 9) (cell r.pt 10)
  /-- A failure: no result (R130). -/
  failure : r.cmd = 0x01 → r.done = true → r.ok = false → r.uc = 0 ∧ r.sc = 0 ∧ r.ts = 0

/-- An access R47 gives a meaning. -/
def HostOp.inRange (o : HostOp) : Prop :=
  match o with
  | .read addr n => accessOk addr n
  | .write addr n _ => accessOk addr n
  | .wait => True

/-- Every access the host still wants has a meaning. -/
def AccessesInRange (s : State) : Prop := ∀ o ∈ s.hostQueue, o.inRange

/-- `UC`, `SC`, `TS` are a result: "only when `DONE = 1`, `OK = 1` and the completed command was `OTP`" (R186). -/
def ResultValid (r : Regs) : Prop := r.done = true ∧ r.ok = true ∧ r.cmd = 0x01

/-- The host is about to write while the block is busy, against its duty (R184): the write will be dropped. -/
def WriteWillBeDropped (s : State) : Prop := s.phase ≠ .idle ∧ ∃ addr n v q, s.hostQueue = .write addr n v :: q

/-- A bound on the block steps a busy block still needs (R143 "at most 8 block steps"). -/
def stepsLeft (cmd : Byte) (p : Phase) : Nat :=
  match p with
  | .idle => 0
  | .pMhdec => if cmd = 0x01 then 8 else 1
  | .pLen => 7
  | .pSplit => 6
  | .pPrefix => 5
  | .pAes => if cmd = 0x01 then 4 else 1
  | .pUid => 3
  | .pCrc => 2
  | .pParse => 1
  | .pMhenc => 1
  | .pCrcbuf => 1

/-- `n` steps of the machine, stopping at the first fault or refusal; what `Host.Core.run` does. -/
def runSteps (n : Nat) (s : State) : Host.Outcome State Fault Refusal :=
  match n with
  | 0 => .next s
  | k + 1 =>
    match step s with
    | .next t => runSteps k t
    | .fault f => .fault f
    | .refused q => .refused q

/-- The registers a command clears or writes besides `CMD`, `PHASE` and the flags: the columns "clears to 0 at START" and
"writes in its phases" of R19. -/
def commandWrites (i : Instr) (g : Reg) : Bool :=
  match i with
  | .otp => decide (g ∈ [.buf, .buflen, .ct, .pt, .crc, .uc, .sc, .ts])
  | .mhdec => decide (g ∈ [.buf, .buflen])
  | .mhenc => decide (g ∈ [.tok, .toklen])
  | .crc16 => decide (g = .crc)
  | .aesdec => decide (g = .pt)

/-- What the document tells the host to do with an error (R171): guidance for the host's software, done by no hardware. -/
inductive HostTreatment where
  /-- "configuration/programmer error". -/
  | configurationError
  /-- "may retry lookup against a different device's key". -/
  | otherDeviceMayBeTried
  /-- "never retried". -/
  | neverRetried
  /-- No treatment beyond "terminal". -/
  | terminal
  deriving DecidableEq, Repr

/-- The table of R171; `IllegalCommand` is the spec's own kind and R171 gives it no row, so it has none. -/
def hostTreatment (e : ErrKind) : Option HostTreatment :=
  match e with
  | .invalidKeyLength | .invalidBlockLength => some .configurationError
  | .unknownDevice => some .otherDeviceMayBeTried
  | .identityMismatch | .integrityCheckFailed => some .neverRetried
  | .invalidEncoding | .truncatedToken => some .terminal
  | .illegalCommand => none

end Sys2Proof.Machine
end

