-- ==== Sys2Proof/Certificates/Slice0/Obligations.lean ====
section
/-! DEFINITION. The statements for the provers. Each docstring names the rules of spec/ it formalises. -/

open Sys2Proof Sys2Proof.Machine

/-! Encoding -/

/-- R60: the five command words, written bit by bit. -/
def Obligations.CommandWordsReadAsTheirCommands : Prop :=
  decode 0b00000001#8 = .ok .otp ∧ decode 0b00000010#8 = .ok .mhdec ∧ decode 0b00000011#8 = .ok .mhenc ∧
  decode 0b00000100#8 = .ok .crc16 ∧ decode 0b00000101#8 = .ok .aesdec

/-- R60, R61: a word decodes to a command exactly when it is that command's word; the words that decode to none are 0x00 and
0x06 to 0xFF, 251 in all. -/
def Obligations.DecodeInvertsEncode : Prop :=
  (∀ (w : Byte) (i : Instr), decode w = .ok i ↔ w = encode i) ∧
  (∀ w : Byte, (∃ e, decode w = .error e) ↔ w.toNat = 0 ∨ 6 ≤ w.toNat) ∧
  ((List.range 256).filter fun n => decide (n = 0 ∨ 6 ≤ n)).length = 251

/-- R62, R63: the sixteen symbols in the order of their nibbles; `mh_val` and `mh_sym` are inverse on them; every other one
of the 240 codes is outside. The codes themselves are ASCII (log 12). -/
def Obligations.AlphabetIsTheSixteenSymbols : Prop :=
  (List.range 16).map (fun n => mhSym (BitVec.ofNat 4 n)) =
    [0x63, 0x62, 0x64, 0x65, 0x66, 0x67, 0x68, 0x69, 0x6A, 0x6B, 0x6C, 0x6E, 0x72, 0x74, 0x75, 0x76] ∧
  (∀ n : Nibble, mhVal (mhSym n) = some n) ∧
  (∀ (ch : Byte) (n : Nibble), mhVal ch = some n → mhSym n = ch) ∧
  ((List.range 256).filter fun n => !inAlphabet (BitVec.ofNat 8 n)).length = 240

/-- R81: `modhex_decode` fails, with `InvalidEncoding`, exactly on a character outside the alphabet or an odd length, and
otherwise gives the bytes of the pairs. -/
def Obligations.ModhexDecodeOfAnyText : Prop :=
  ∀ t : List Byte,
    (((∃ ch ∈ t, inAlphabet ch = false) ∨ t.length % 2 = 1) → modhexDecode t = .error .invalidEncoding) ∧
    (((∀ ch ∈ t, inAlphabet ch = true) ∧ t.length % 2 = 0) →
      ∃ bs, modhexDecode t = .ok bs ∧ bs.length = t.length / 2 ∧
        ∀ k, k < t.length / 2 → ∃ hi lo, mhVal (t.getD (2 * k) 0) = some hi ∧ mhVal (t.getD (2 * k + 1) 0) = some lo ∧
          bs.getD k 0 = (hi.setWidth 8 <<< 4) ||| lo.setWidth 8)

/-- R82: the text of `modhex_encode`, two characters a byte, bits 7:4 first. -/
def Obligations.ModhexEncodeOfAnyBytes : Prop :=
  ∀ bs : List Byte, (modhexEncode bs).length = 2 * bs.length ∧
    ∀ k, k < bs.length →
      (modhexEncode bs).getD (2 * k) 0 = mhSym ((bs.getD k 0).extractLsb' 4 4) ∧
      (modhexEncode bs).getD (2 * k + 1) 0 = mhSym ((bs.getD k 0).extractLsb' 0 4)

/-- R83: decoding an encoded byte sequence gives it back, and encoding the decoding of an accepted text gives the text. -/
def Obligations.ModhexRoundTrip : Prop :=
  (∀ bs : List Byte, modhexDecode (modhexEncode bs) = .ok bs) ∧
  (∀ t bs : List Byte, modhexDecode t = .ok bs → modhexEncode bs = t)

/-! CRC -/

/-- R92, R93: the initial value for the empty sequence, the byte step after any bytes, and the bit step on numbers. -/
def Obligations.CrcByteAndBitSteps : Prop :=
  crc16 [] = 0xFFFF ∧
  (∀ (d : List Byte) (b : Byte), crc16 (d ++ [b]) = crcBit^[8] (crc16 d ^^^ b.setWidth 16)) ∧
  (∀ r : Half, (crcBit r).toNat = if r.toNat % 2 = 1 then (r.toNat / 2) ^^^ 0x8408 else r.toNat / 2)

/-- R96 item 1: the loop carries nothing but its register. -/
def Obligations.CrcOfConcatenationFollowsFirstPart : Prop :=
  ∀ d d' e : List Byte, crc16 d = crc16 d' → crc16 (d ++ e) = crc16 (d' ++ e)

/-- R96 item 2: a message followed by the complement of its CRC, low byte first, leaves the residue. -/
def Obligations.CrcResidueOfComplementedTrailer : Prop :=
  ∀ m : List Byte, crc16 (m ++ [byteOf (crc16 m ^^^ 0xFFFF) 0, byteOf (crc16 m ^^^ 0xFFFF) 1]) = 0xF0B8

/-! Cipher -/

/-- R103: the arithmetic of GF(2^8). -/
def Obligations.FieldArithmeticLaws : Prop :=
  (∀ a b : Byte, gmul a b = gmul b a) ∧ (∀ a b c : Byte, gmul a (gmul b c) = gmul (gmul a b) c) ∧
  (∀ a b c : Byte, gmul a (b ^^^ c) = gmul a b ^^^ gmul a c) ∧ (∀ a : Byte, gmul a 0x01 = a) ∧
  (∀ a : Byte, gmul a 0x00 = 0x00) ∧ (∀ a : Byte, a ≠ 0 → ∃ b : Byte, gmul a b = 0x01 ∧ ∀ c : Byte, gmul a c = 0x01 → c = b)

/-- R104, R105: the table `SBOX` is the affine image of the field inverse, and `ISBOX` is its inverse permutation. -/
def Obligations.SboxIsAffineImageOfInverse : Prop :=
  (∀ a : Byte, isbox (sbox a) = a ∧ sbox (isbox a) = a) ∧
  ∀ a : Byte, ∃ x : Byte, (a = 0 → x = 0) ∧ (a ≠ 0 → gmul a x = 0x01) ∧
    ∀ i, i < 8 → (sbox a).getLsbD i =
      (x.getLsbD i ^^ x.getLsbD ((i + 4) % 8) ^^ x.getLsbD ((i + 5) % 8) ^^ x.getLsbD ((i + 6) % 8) ^^
        x.getLsbD ((i + 7) % 8) ^^ (0x63#8).getLsbD i)

/-- R106: the 44 words of the key expansion: the key itself, then the recurrence, byte by byte, with `RotWord`, `SubWord` and
the ten constants `RCON` written out. -/
def Obligations.KeyExpansionRecurrence : Prop :=
  ∀ key : List Byte, key.length = 16 →
    (keyExpansion key).length = 44 ∧ roundKey (keyExpansion key) 0 = key ∧
    (∀ i, 4 ≤ i → i < 44 →
      let p := (keyExpansion key).getD (i - 1) ⟨0, 0, 0, 0⟩
      let q := (keyExpansion key).getD (i - 4) ⟨0, 0, 0, 0⟩
      (i % 4 = 0 → (keyExpansion key)[i]? =
        some ⟨q.b0 ^^^ (sbox p.b1 ^^^ [0x01, 0x02, 0x04, 0x08, 0x10, 0x20, 0x40, 0x80, 0x1B, 0x36].getD (i / 4 - 1) 0),
          q.b1 ^^^ sbox p.b2, q.b2 ^^^ sbox p.b3, q.b3 ^^^ sbox p.b0⟩) ∧
      (i % 4 ≠ 0 → (keyExpansion key)[i]? =
        some ⟨q.b0 ^^^ p.b0, q.b1 ^^^ p.b1, q.b2 ^^^ p.b2, q.b3 ^^^ p.b3⟩)) ∧
    (∀ n c, n ≤ 10 → c < 4 →
      ((roundKey (keyExpansion key) n).drop (4 * c)).take 4 =
        (let w := (keyExpansion key).getD (4 * n + c) ⟨0, 0, 0, 0⟩; [w.b0, w.b1, w.b2, w.b3]))

/-- R102, R107 to R110: the round operations, state byte by state byte; byte `s[r][c]` is block index `r + 4c`. -/
def Obligations.RoundOperationsByStateByte : Prop :=
  ∀ s k : List Byte, s.length = 16 → k.length = 16 → ∀ r c, r < 4 → c < 4 →
    (addRoundKey s k).getD (r + 4 * c) 0 = s.getD (r + 4 * c) 0 ^^^ k.getD (r + 4 * c) 0 ∧
    (invShiftRows s).getD (r + 4 * ((c + r) % 4)) 0 = s.getD (r + 4 * c) 0 ∧
    (invSubBytes s).getD (r + 4 * c) 0 = isbox (s.getD (r + 4 * c) 0) ∧
    (invMixColumns s).getD (r + 4 * c) 0 =
      gmul ([0x0E, 0x09, 0x0D, 0x0B].getD r 0) (s.getD (4 * c) 0) ^^^
      gmul ([0x0B, 0x0E, 0x09, 0x0D].getD r 0) (s.getD (1 + 4 * c) 0) ^^^
      gmul ([0x0D, 0x0B, 0x0E, 0x09].getD r 0) (s.getD (2 + 4 * c) 0) ^^^
      gmul ([0x09, 0x0D, 0x0B, 0x0E].getD r 0) (s.getD (3 + 4 * c) 0)

/-- R101 to R111: under every key the inverse cipher is a permutation of the blocks: two blocks with one plaintext are one
block. -/
def Obligations.InverseCipherIsInjective : Prop :=
  ∀ key c d : List Byte, key.length = 16 → c.length = 16 → d.length = 16 → invCipher key c = invCipher key d → c = d

/-- R111: the inverse cipher is its round operations in the order of the pseudocode, rounds 9 down to 1, the last step
without `InvMixColumns`; and the two known answers of R111 (for lists that are no key or
block: log 24). -/
def Obligations.InverseCipherIsItsRoundsInOrder : Prop :=
  (∀ key ct : List Byte,
    let rk : Nat → List Byte := roundKey (keyExpansion key)
    let round : List Byte → Nat → List Byte := fun s n => invMixColumns (addRoundKey (invSubBytes (invShiftRows s)) (rk n))
    invCipher key ct =
      addRoundKey (invSubBytes (invShiftRows ([9, 8, 7, 6, 5, 4, 3, 2, 1].foldl round (addRoundKey ct (rk 10))))) (rk 0)) ∧
  invCipher [0x00, 0x01, 0x02, 0x03, 0x04, 0x05, 0x06, 0x07, 0x08, 0x09, 0x0A, 0x0B, 0x0C, 0x0D, 0x0E, 0x0F]
      [0x69, 0xC4, 0xE0, 0xD8, 0x6A, 0x7B, 0x04, 0x30, 0xD8, 0xCD, 0xB7, 0x80, 0x70, 0xB4, 0xC5, 0x5A] =
    [0x00, 0x11, 0x22, 0x33, 0x44, 0x55, 0x66, 0x77, 0x88, 0x99, 0xAA, 0xBB, 0xCC, 0xDD, 0xEE, 0xFF] ∧
  invCipher [0x2B, 0x7E, 0x15, 0x16, 0x28, 0xAE, 0xD2, 0xA6, 0xAB, 0xF7, 0x15, 0x88, 0x09, 0xCF, 0x4F, 0x3C]
      [0x39, 0x25, 0x84, 0x1D, 0x02, 0xDC, 0x09, 0xFB, 0xDC, 0x11, 0x85, 0x97, 0x19, 0x6A, 0x0B, 0x32] =
    [0x32, 0x43, 0xF6, 0xA8, 0x88, 0x5A, 0x30, 0x8D, 0x31, 0x31, 0x98, 0xA2, 0xE0, 0x37, 0x07, 0x34]

/-- R100: the contract over byte sequences of any length, key tested first. -/
def Obligations.DecryptBlockContract : Prop :=
  ∀ key ct : List Byte,
    (key.length ≠ 16 → decryptBlock key ct = .error .invalidKeyLength) ∧
    (key.length = 16 → ct.length ≠ 16 → decryptBlock key ct = .error .invalidBlockLength) ∧
    (key.length = 16 → ct.length = 16 → decryptBlock key ct = .ok (invCipher key ct) ∧ (invCipher key ct).length = 16)

/-! The function `decode_token` -/

/-- R120, R163: the first failing step decides, in the order of the steps; said over the token's characters (R65).
That it holds for an expected identity that is not 6 bytes, where the comparison fails, is the model's choice (log 22). -/
def Obligations.DecodeTokenFirstFailingStep : Prop :=
  ∀ token pid uid key : List Byte, key.length = 16 →
    decodeToken token pid uid key =
      if (∃ ch ∈ token, inAlphabet ch = false) ∨ token.length % 2 = 1 then .error .invalidEncoding
      else if token.length ≠ 44 then .error .truncatedToken
      else if packPairs (token.take 12) ≠ pid then .error .unknownDevice
      else if (invCipher key (packPairs (token.drop 12))).take 6 ≠ uid then .error .identityMismatch
      else if crc16 (invCipher key (packPairs (token.drop 12))) ≠ 0xF0B8 then .error .integrityCheckFailed
      else
        let pt := invCipher key (packPairs (token.drop 12))
        .ok { useCounter := le16 (pt.getD 6 0) (pt.getD 7 0), sessionCounter := pt.getD 11 0,
              timestamp := ((pt.getD 10 0).setWidth 32 <<< 16) ||| (le16 (pt.getD 8 0) (pt.getD 9 0)).setWidth 32 }

/-- R133 item 1, R124: whether the answer is `UnknownDevice` does not depend on the key, and a right prefix never gives it.
That it holds for an expected identity that is not 6 bytes is the model's choice (log 22), and for a key that is not 16 bytes a
deduction (log 23). -/
def Obligations.UnknownDeviceIgnoresKey : Prop :=
  (∀ token pid uid key key' : List Byte,
    decodeToken token pid uid key = .error .unknownDevice ↔ decodeToken token pid uid key' = .error .unknownDevice) ∧
  (∀ token pid uid key bs : List Byte, modhexDecode token = .ok bs → bs.take 6 = pid →
    decodeToken token pid uid key ≠ .error .unknownDevice)

/-- 90_conflicts.md C3, R133 item 2: another symbol in one of the first 12 characters of a token that has the right prefix
gives `UnknownDevice`. -/
def Obligations.PrefixCharacterFlipIsUnknownDevice : Prop :=
  ∀ (token pid uid key : List Byte) (k : Nat) (ch : Byte),
    token.length = 44 → (∀ c ∈ token, inAlphabet c = true) → packPairs (token.take 12) = pid → k < 12 →
    inAlphabet ch = true → ch ≠ token.getD k 0 →
    decodeToken (token.set k ch) pid uid key = .error .unknownDevice

/-- R70, R128, R129: the result fields do not depend on plaintext bytes 12 to 15 (for lists that are no block: log 24). -/
def Obligations.ParseIgnoresRandomFieldAndTrailer : Prop :=
  ∀ p q : List Byte, p.take 12 = q.take 12 → parsePayload p = parsePayload q

/-! The step -/

/-- R142, R144: a step runs the decoded instruction. On the host's turn (or with no turn listed) an idle block whose host
writes a command word to 0x00 runs `exec` of the decoded command, the access gone from the host's queue; on the block's turn
(or with no turn listed) a busy block runs `exec` of the command in `CMD`. -/
def Obligations.StepRunsDecodedInstruction : Prop :=
  (∀ (s : State) (w : Byte) (i : Instr) (q : List HostOp) (ts : List Turn),
    s.phase = .idle → s.turns = .host :: ts → s.hostQueue = .write 0 1 w.toNat :: q → decode w = .ok i →
    step s = exec i { s with turns := ts, hostQueue := q }) ∧
  (∀ (s : State) (w : Byte) (i : Instr) (q : List HostOp),
    s.phase = .idle → s.turns = [] → s.hostQueue = .write 0 1 w.toNat :: q → decode w = .ok i →
    step s = exec i { s with hostQueue := q }) ∧
  (∀ (s : State) (i : Instr) (ts : List Turn),
    s.phase ≠ .idle → s.turns = .block :: ts → decode s.cmd = .ok i → step s = exec i { s with turns := ts }) ∧
  (∀ (s : State) (i : Instr), s.phase ≠ .idle → s.turns = [] → decode s.cmd = .ok i → step s = exec i s)

/-- R142, R19 column "clears to 0 at START": START of each command on an idle block, whatever the flags hold; and of a
reserved word. -/
def Obligations.StartClearsOutputsAndEntersFirstPhase : Prop :=
  ∀ s : State, s.phase = .idle →
    (∀ w : Byte, hostWriteByte 0x00 w s = startWord w s) ∧
    (∀ i : Instr, startWord (encode i) s = exec i s) ∧
    exec .otp s = .next { s with cmd := 0x01, done := false, ok := false, err := none, phase := .pMhdec, buf := zeros 24, buflen := 0, ct := zeros 16, pt := zeros 16, crc := 0, uc := 0, sc := 0, ts := 0 } ∧
    exec .mhdec s = .next { s with cmd := 0x02, done := false, ok := false, err := none, phase := .pMhdec, buf := zeros 24, buflen := 0 } ∧
    exec .mhenc s = .next { s with cmd := 0x03, done := false, ok := false, err := none, phase := .pMhenc, tok := zeros 48, toklen := 0 } ∧
    exec .crc16 s = .next { s with cmd := 0x04, done := false, ok := false, err := none, phase := .pCrcbuf, crc := 0 } ∧
    exec .aesdec s = .next { s with cmd := 0x05, done := false, ok := false, err := none, phase := .pAes, pt := zeros 16 } ∧
    (∀ w : Byte, w.toNat = 0 ∨ 6 ≤ w.toNat →
      startWord w s = .next { s with cmd := w, done := true, ok := false, err := some .illegalCommand })

/-- R146, R61: a reserved word written to `CMD` of an idle block: `CMD` takes it, no data register changes, and the command
has already ended as `IllegalCommand`. -/
def Obligations.ReservedWordEndsAtOnce : Prop :=
  ∀ (s : State) (w : Byte) (q : List HostOp) (ts : List Turn),
    s.phase = .idle → s.turns = .host :: ts → s.hostQueue = .write 0 1 w.toNat :: q → w.toNat = 0 ∨ 6 ≤ w.toNat →
    step s = .next { s with turns := ts, hostQueue := q, cmd := w, done := true, ok := false, err := some .illegalCommand }

/-- Model's reading of R143 and R49 (log 5, log 6): a command that is not the one running changes nothing; a running command
at a phase outside its chain stops with `noTransition`. -/
def Obligations.ExecOutsideTheTransitionTable : Prop :=
  ∀ (i : Instr) (s : State), s.phase ≠ .idle →
    (s.cmd ≠ encode i → exec i s = .next s) ∧
    (s.cmd = encode i → runsAt s.cmd s.phase = false → exec i s = .fault (.noTransition s.cmd s.phase))

/-! The commands, from START to the end -/

/-- R84: `MHDEC` from an idle block: START, then its one phase. -/
def Obligations.MhdecDecodesTokenBuffer : Prop :=
  ∀ s : State, s.phase = .idle → s.toklen.toNat ≤ 48 →
    ∃ t u : State, exec .mhdec s = .next t ∧ exec .mhdec t = .next u ∧
      (((∃ i, i < s.toklen.toNat ∧ inAlphabet (cell s.tok i) = false) ∨ s.toklen.toNat % 2 = 1) →
        u = { s with cmd := 0x02, phase := .idle, done := true, ok := false, err := some .invalidEncoding, buf := zeros 24, buflen := 0 }) ∧
      (((∀ i, i < s.toklen.toNat → inAlphabet (cell s.tok i) = true) ∧ s.toklen.toNat % 2 = 0) →
        u = { s with cmd := 0x02, phase := .idle, done := true, ok := true, err := none, buf := u.buf, buflen := u.buflen } ∧
        u.buflen.toNat = s.toklen.toNat / 2 ∧
        (∀ i, i < s.toklen.toNat / 2 → cell u.buf i = packByte (cell s.tok (2 * i)) (cell s.tok (2 * i + 1))) ∧
        (∀ i, s.toklen.toNat / 2 ≤ i → i < 24 → cell u.buf i = 0))

/-- R85: `MHENC` from an idle block: it cannot fail, and an `MHDEC` after it restores `BUF[0..BUFLEN-1]` and `BUFLEN`. -/
def Obligations.MhencEncodesByteBuffer : Prop :=
  ∀ s : State, s.phase = .idle → s.buflen.toNat ≤ 24 →
    ∃ t u : State, exec .mhenc s = .next t ∧ exec .mhenc t = .next u ∧
      u = { s with cmd := 0x03, phase := .idle, done := true, ok := true, err := none, tok := u.tok, toklen := u.toklen } ∧
      u.toklen.toNat = 2 * s.buflen.toNat ∧
      (∀ i, i < s.buflen.toNat → cell u.tok (2 * i) = mhSym ((cell s.buf i).extractLsb' 4 4) ∧
        cell u.tok (2 * i + 1) = mhSym ((cell s.buf i).extractLsb' 0 4)) ∧
      (∀ i, 2 * s.buflen.toNat ≤ i → i < 48 → cell u.tok i = 0) ∧
      ∃ v w : State, exec .mhdec u = .next v ∧ exec .mhdec v = .next w ∧ w.ok = true ∧ w.buflen = s.buflen ∧
        ∀ i, i < s.buflen.toNat → cell w.buf i = cell s.buf i

/-- R95: `CRC16` from an idle block: it cannot fail; `RES` says whether the residue was found. -/
def Obligations.Crc16ComputesCrcOfBuffer : Prop :=
  ∀ s : State, s.phase = .idle → s.buflen.toNat ≤ 24 →
    ∃ t u : State, exec .crc16 s = .next t ∧ exec .crc16 t = .next u ∧
      u = { s with cmd := 0x04, phase := .idle, done := true, ok := true, err := none, crc := crc16 (s.buf.toList.take s.buflen.toNat) } ∧
      (res u.toRegs = true ↔ crc16 (s.buf.toList.take s.buflen.toNat) = 0xF0B8) ∧
      (s.buflen = 0 → u.crc = 0xFFFF ∧ res u.toRegs = false)

/-- R112: `AESDEC` from an idle block: it cannot fail. -/
def Obligations.AesdecDecryptsOneBlock : Prop :=
  ∀ s : State, s.phase = .idle →
    ∃ t u : State, exec .aesdec s = .next t ∧ exec .aesdec t = .next u ∧
      u = { s with cmd := 0x05, phase := .idle, done := true, ok := true, err := none, pt := u.pt } ∧
      decryptBlock s.key.toList s.ct.toList = .ok u.pt.toList

/-! The phases of `OTP` -/

/-- R121: phase `P_MHDEC` under `OTP`. -/
def Obligations.OtpMhdecPhase : Prop :=
  ∀ s : State, s.phase = .pMhdec → s.cmd = 0x01 → s.toklen.toNat ≤ 48 →
    (modhexDecode (tokenText s.toRegs) = .error .invalidEncoding →
      exec .otp s = .next { s with phase := .idle, done := true, ok := false, err := some .invalidEncoding }) ∧
    (∀ bs, modhexDecode (tokenText s.toRegs) = .ok bs →
      exec .otp s = .next { s with phase := .pLen, buf := store s.buf bs, buflen := BitVec.ofNat 5 bs.length })

/-- R122: phase `P_LEN`; on its failure `CT` and `PT` still hold the 0 of START (what the pipeline keeps). -/
def Obligations.OtpLenPhase : Prop :=
  ∀ s : State, s.phase = .pLen → s.cmd = 0x01 →
    (s.buflen.toNat ≠ 22 →
      exec .otp s = .next { s with phase := .idle, done := true, ok := false, err := some .truncatedToken } ∧
      (PipelineInv s.toRegs → s.ct = zeros 16 ∧ s.pt = zeros 16)) ∧
    (s.buflen.toNat = 22 → exec .otp s = .next { s with phase := .pSplit })

/-- R123: phase `P_SPLIT`. -/
def Obligations.OtpSplitPhase : Prop :=
  ∀ s : State, s.phase = .pSplit → s.cmd = 0x01 →
    ∃ t : State, exec .otp s = .next t ∧ t = { s with phase := .pPrefix, ct := t.ct } ∧
      ∀ i, i < 16 → cell t.ct i = cell s.buf (6 + i)

/-- R124: phase `P_PREFIX`; on its failure `PT` is still 0. -/
def Obligations.OtpPrefixPhase : Prop :=
  ∀ s : State, s.phase = .pPrefix → s.cmd = 0x01 →
    ((∃ i, i < 6 ∧ cell s.buf i ≠ cell s.pid i) →
      exec .otp s = .next { s with phase := .idle, done := true, ok := false, err := some .unknownDevice } ∧
      (PipelineInv s.toRegs → s.pt = zeros 16)) ∧
    ((∀ i, i < 6 → cell s.buf i = cell s.pid i) → exec .otp s = .next { s with phase := .pAes })

/-- R125: phase `P_AES` under `OTP`. -/
def Obligations.OtpAesPhase : Prop :=
  ∀ s : State, s.phase = .pAes → s.cmd = 0x01 →
    ∃ t : State, exec .otp s = .next t ∧ t = { s with phase := .pUid, pt := t.pt } ∧
      decryptBlock s.key.toList s.ct.toList = .ok t.pt.toList

/-- R126: phase `P_UID`; on its failure `CRC` is still 0. -/
def Obligations.OtpUidPhase : Prop :=
  ∀ s : State, s.phase = .pUid → s.cmd = 0x01 →
    ((∃ i, i < 6 ∧ cell s.pt i ≠ cell s.uid i) →
      exec .otp s = .next { s with phase := .idle, done := true, ok := false, err := some .identityMismatch } ∧
      (PipelineInv s.toRegs → s.crc = 0)) ∧
    ((∀ i, i < 6 → cell s.pt i = cell s.uid i) → exec .otp s = .next { s with phase := .pCrc })

/-- R127: phase `P_CRC`, which writes `CRC` in both outcomes. -/
def Obligations.OtpCrcPhase : Prop :=
  ∀ s : State, s.phase = .pCrc → s.cmd = 0x01 →
    (crc16 s.pt.toList ≠ 0xF0B8 →
      exec .otp s = .next { s with crc := crc16 s.pt.toList, phase := .idle, done := true, ok := false, err := some .integrityCheckFailed }) ∧
    (crc16 s.pt.toList = 0xF0B8 → exec .otp s = .next { s with crc := 0xF0B8, phase := .pParse })

/-- R128: phase `P_PARSE`; bits 31:24 of `TS` are 0. -/
def Obligations.OtpParsePhase : Prop :=
  ∀ s : State, s.phase = .pParse → s.cmd = 0x01 →
    ∃ t : State, exec .otp s = .next t ∧
      t = { s with phase := .idle, done := true, ok := true, err := none, uc := t.uc, sc := t.sc, ts := t.ts } ∧
      t.uc.toNat = (cell s.pt 7).toNat * 256 + (cell s.pt 6).toNat ∧ t.sc = cell s.pt 11 ∧
      t.ts.toNat = (cell s.pt 10).toNat * 65536 + (cell s.pt 9).toNat * 256 + (cell s.pt 8).toNat

/-! `OTP` from START to the end -/

/-- R120, R132: run from START, `OTP` ends within 8 block steps with exactly the answer of `decode_token` on the operands at
START. With no turns listed a busy block moves (log 1). -/
def Obligations.OtpRefinesDecodeToken : Prop :=
  ∀ (s : State) (q : List HostOp), s.phase = .idle → s.turns = [] → s.hostQueue = .write 0 1 1 :: q →
    s.toklen.toNat ≤ 48 →
    ∃ (k : Nat) (t : State), 1 ≤ k ∧ k ≤ 8 ∧ runSteps (k + 1) s = .next t ∧ t.phase = .idle ∧ t.done = true ∧
      t.hostQueue = q ∧
      match decodeToken (tokenText s.toRegs) s.pid.toList s.uid.toList s.key.toList with
      | .error e => t.ok = false ∧ t.err = some e ∧ t.uc = 0 ∧ t.sc = 0 ∧ t.ts = 0
      | .ok d => t.ok = true ∧ t.err = none ∧ t.uc = d.useCounter ∧ t.sc = d.sessionCounter ∧ t.ts = d.timestamp

/-- R132: the end-state table, and the registers `OTP` leaves unchanged. -/
def Obligations.OtpEndStateTable : Prop :=
  ∀ (s : State) (q : List HostOp), s.phase = .idle → s.turns = [] → s.hostQueue = .write 0 1 1 :: q →
    s.toklen.toNat ≤ 48 →
    ∃ (k : Nat) (t : State), 1 ≤ k ∧ k ≤ 8 ∧ runSteps (k + 1) s = .next t ∧ t.phase = .idle ∧ t.done = true ∧
      t.cmd = 0x01 ∧ t.tok = s.tok ∧ t.toklen = s.toklen ∧ t.pid = s.pid ∧ t.uid = s.uid ∧ t.key = s.key ∧
      match modhexDecode (tokenText s.toRegs) with
      | .error _ => t.err = some .invalidEncoding ∧ t.ok = false ∧ t.buf = zeros 24 ∧ t.buflen = 0 ∧ t.ct = zeros 16 ∧
          t.pt = zeros 16 ∧ t.crc = 0 ∧ t.uc = 0 ∧ t.sc = 0 ∧ t.ts = 0
      | .ok bs =>
        t.buf = store (zeros 24) bs ∧ t.buflen.toNat = bs.length ∧
        if bs.length ≠ 22 then
          t.err = some .truncatedToken ∧ t.ok = false ∧ t.ct = zeros 16 ∧ t.pt = zeros 16 ∧ t.crc = 0 ∧
          t.uc = 0 ∧ t.sc = 0 ∧ t.ts = 0
        else
          t.ct.toList = slice t.buf 6 16 ∧
          if bs.take 6 ≠ s.pid.toList then
            t.err = some .unknownDevice ∧ t.ok = false ∧ t.pt = zeros 16 ∧ t.crc = 0 ∧ t.uc = 0 ∧ t.sc = 0 ∧ t.ts = 0
          else
            t.pt.toList = invCipher s.key.toList (bs.drop 6) ∧
            if slice t.pt 0 6 ≠ s.uid.toList then
              t.err = some .identityMismatch ∧ t.ok = false ∧ t.crc = 0 ∧ t.uc = 0 ∧ t.sc = 0 ∧ t.ts = 0
            else
              t.crc = crc16 t.pt.toList ∧
              if t.crc ≠ 0xF0B8 then
                t.err = some .integrityCheckFailed ∧ t.ok = false ∧ t.uc = 0 ∧ t.sc = 0 ∧ t.ts = 0
              else
                t.err = none ∧ t.ok = true ∧ t.uc = le16 (cell t.pt 6) (cell t.pt 7) ∧ t.sc = cell t.pt 11 ∧
                t.ts = timestampOf (cell t.pt 8) (cell t.pt 9) (cell t.pt 10)

/-- R131: the final registers of `OTP` are a function of `TOK`, `TOKLEN`, `PID`, `UID`, `KEY` at START: nothing earlier
commands left matters. -/
def Obligations.OtpOutcomeDependsOnOperandsAlone : Prop :=
  ∀ (s s' : State) (q q' : List HostOp), s.phase = .idle → s'.phase = .idle → s.turns = [] → s'.turns = [] →
    s.hostQueue = .write 0 1 1 :: q → s'.hostQueue = .write 0 1 1 :: q' →
    s.tok = s'.tok → s.toklen = s'.toklen → s.pid = s'.pid → s.uid = s'.uid → s.key = s'.key →
    ∃ (k : Nat) (t t' : State), k ≤ 8 ∧ runSteps (k + 1) s = .next t ∧ runSteps (k + 1) s' = .next t' ∧
      t.phase = .idle ∧ t.done = true ∧ t.toRegs = t'.toRegs

/-! Frames -/

/-- R19: what a step of a command leaves unchanged, register by register, and byte by byte of the register space. The bytes
that may change are those of `CMD`, `STATUS`, `PHASE` and of the registers in the command's columns of R19. -/
def Obligations.CommandFrames : Prop :=
  ∀ (i : Instr) (s t : State), exec i s = .next t →
    t.pid = s.pid ∧ t.uid = s.uid ∧ t.key = s.key ∧
    t.hostQueue = s.hostQueue ∧ t.turns = s.turns ∧ t.readData = s.readData ∧
    (i ≠ .mhenc → t.tok = s.tok ∧ t.toklen = s.toklen) ∧
    (i ≠ .otp → i ≠ .mhdec → t.buf = s.buf ∧ t.buflen = s.buflen) ∧
    (i ≠ .otp → t.ct = s.ct ∧ t.uc = s.uc ∧ t.sc = s.sc ∧ t.ts = s.ts) ∧
    (i ≠ .otp → i ≠ .aesdec → t.pt = s.pt) ∧
    (i ≠ .otp → i ≠ .crc16 → t.crc = s.crc) ∧
    (∀ a : Byte, (∀ g k, locate a = some (g, k) →
        g.reg ≠ .cmd ∧ g.reg ≠ .status ∧ g.reg ≠ .phase ∧ commandWrites i g.reg = false) →
      readByte t.toRegs a = readByte s.toRegs a)

/-- R164, R165: an error's entry and a success change the flags and `PHASE`, nothing else. -/
def Obligations.FailAndCompleteChangeFlagsOnly : Prop :=
  ∀ r : Regs, (∀ e, fail e r = { r with err := some e, ok := false, done := true, phase := .idle }) ∧
    complete r = { r with err := none, ok := true, done := true, phase := .idle }

/-! The register space -/

/-- R41, R43: what each address reads as. -/
def Obligations.RegisterMapReads : Prop :=
  ∀ r : Regs,
    readByte r 0x00 = r.cmd ∧ readByte r 0x01 = status r ∧ readByte r 0x02 = r.phase.code.setWidth 8 ∧
    readByte r 0x03 = r.toklen.setWidth 8 ∧ readByte r 0x04 = r.buflen.setWidth 8 ∧
    readByte r 0x18 = r.crc.extractLsb' 0 8 ∧ readByte r 0x19 = r.crc.extractLsb' 8 8 ∧
    readByte r 0x1A = r.uc.extractLsb' 0 8 ∧ readByte r 0x1B = r.uc.extractLsb' 8 8 ∧ readByte r 0x1C = r.sc ∧
    readByte r 0x20 = r.ts.extractLsb' 0 8 ∧ readByte r 0x21 = r.ts.extractLsb' 8 8 ∧
    readByte r 0x22 = r.ts.extractLsb' 16 8 ∧ readByte r 0x23 = r.ts.extractLsb' 24 8 ∧
    (∀ i, i < 6 → readByte r (BitVec.ofNat 8 (0x08 + i)) = cell r.pid i ∧ readByte r (BitVec.ofNat 8 (0x10 + i)) = cell r.uid i) ∧
    (∀ i, i < 16 → readByte r (BitVec.ofNat 8 (0x30 + i)) = cell r.key i ∧
      readByte r (BitVec.ofNat 8 (0x40 + i)) = cell r.ct i ∧ readByte r (BitVec.ofNat 8 (0x50 + i)) = cell r.pt i) ∧
    (∀ i, i < 24 → readByte r (BitVec.ofNat 8 (0x60 + i)) = cell r.buf i) ∧
    (∀ i, i < 48 → readByte r (BitVec.ofNat 8 (0x80 + i)) = cell r.tok i)

/-- R42, U3: every reserved address reads 0x00 and ignores writes; reserved bits read 0; a length above the capacity is
ignored as a whole byte. -/
def Obligations.ReservedAddressesAndBits : Prop :=
  ∀ (r : Regs) (a b : Byte),
    ((0x05 ≤ a.toNat ∧ a.toNat ≤ 0x07) ∨ (0x0E ≤ a.toNat ∧ a.toNat ≤ 0x0F) ∨ (0x16 ≤ a.toNat ∧ a.toNat ≤ 0x17) ∨
      (0x1D ≤ a.toNat ∧ a.toNat ≤ 0x1F) ∨ (0x24 ≤ a.toNat ∧ a.toNat ≤ 0x2F) ∨ (0x78 ≤ a.toNat ∧ a.toNat ≤ 0x7F) ∨
      0xB0 ≤ a.toNat → readByte r a = 0x00 ∧ writeByte r a b = r) ∧
    (readByte r 0x02).extractLsb' 4 4 = 0 ∧ (readByte r 0x03).extractLsb' 6 2 = 0 ∧
    (readByte r 0x04).extractLsb' 5 3 = 0 ∧
    (48 < b.toNat → writeByte r 0x03 b = r) ∧ (24 < b.toNat → writeByte r 0x04 b = r)

/-- R21, R24: `STATUS`, bit by bit, with the codes of R68; read at 0x01, and a host read of it changes no register; not
writable; 0x00 after reset; `done_o` is `DONE`. That a read while busy gives the exact current value is the model's
(log 10). -/
def Obligations.StatusIsAViewOfTheFlags : Prop :=
  (∀ (r : Regs) (b : Byte),
    ((status r).getLsbD 0 = true ↔ r.phase ≠ .idle) ∧ (status r).getLsbD 1 = r.done ∧ (status r).getLsbD 2 = r.ok ∧
    ((status r).getLsbD 3 = true ↔ r.crc = 0xF0B8) ∧ (status r).extractLsb' 4 4 = errCode r.err ∧
    readByte r 0x01 = status r ∧ writeByte r 0x01 b = r ∧ readByte Regs.reset 0x01 = 0x00 ∧ doneOut r = r.done) ∧
  [errCode none, errCode (some .invalidEncoding), errCode (some .truncatedToken), errCode (some .invalidKeyLength),
    errCode (some .invalidBlockLength), errCode (some .unknownDevice), errCode (some .identityMismatch),
    errCode (some .integrityCheckFailed), errCode (some .illegalCommand)] = [0, 1, 2, 3, 4, 5, 6, 7, 8] ∧
  (∀ (s : State) (q : List HostOp) (ts : List Turn), s.turns = .host :: ts → s.hostQueue = .read 1 1 :: q →
    step s = .next { s with turns := ts, hostQueue := q, readData := s.readData ++ [status s.toRegs] })

/-- R141: a byte the host writes to an idle block, at any address but 0x00: what it reads back as, and that no other byte of
the register space changes. -/
def Obligations.HostWriteStoresOneByte : Prop :=
  ∀ (s : State) (a b : Byte) (q : List HostOp) (ts : List Turn),
    s.phase = .idle → s.turns = .host :: ts → s.hostQueue = .write a.toNat 1 b.toNat :: q → a ≠ 0 →
    ∃ t : State, step s = .next t ∧ t.hostQueue = q ∧ t.turns = ts ∧
      (∀ a' : Byte, a' ≠ a → readByte t.toRegs a' = readByte s.toRegs a') ∧
      (if (a = 0x03 ∧ b.toNat ≤ 48) ∨ (a = 0x04 ∧ b.toNat ≤ 24) ∨ (0x08 ≤ a.toNat ∧ a.toNat ≤ 0x0D) ∨
          (0x10 ≤ a.toNat ∧ a.toNat ≤ 0x15) ∨ (0x30 ≤ a.toNat ∧ a.toNat ≤ 0x4F) ∨ (0x60 ≤ a.toNat ∧ a.toNat ≤ 0x77) ∨
          (0x80 ≤ a.toNat ∧ a.toNat ≤ 0xAF)
        then readByte t.toRegs a = b else t.toRegs = s.toRegs)

/-- R49: a host write to any address while the block is busy is ignored. -/
def Obligations.HostWriteWhileBusyIsIgnored : Prop :=
  ∀ (s : State) (a b : Byte) (q : List HostOp) (ts : List Turn),
    s.phase ≠ .idle → s.turns = .host :: ts → s.hostQueue = .write a.toNat 1 b.toNat :: q →
    step s = .next { s with turns := ts, hostQueue := q }

/-- R140, R50: a host read gives the register's current byte, busy or not, and changes no register. Which of the values R54
allows a read while busy gives is the model's (log 10). -/
def Obligations.HostReadHasNoSideEffect : Prop :=
  ∀ (s : State) (a : Byte) (q : List HostOp) (ts : List Turn),
    s.turns = .host :: ts → s.hostQueue = .read a.toNat 1 :: q →
    step s = .next { s with turns := ts, hostQueue := q, readData := s.readData ++ [readByte s.toRegs a] }

/-- R49, R50, R145: whatever the host does while the block is busy, no register changes. -/
def Obligations.HostCannotDisturbBusyBlock : Prop :=
  ∀ (s : State) (ts : List Turn), s.phase ≠ .idle → s.turns = .host :: ts → AccessesInRange s →
    ∃ t : State, step s = .next t ∧ t.toRegs = s.toRegs ∧ t.turns = ts

/-- R47, U6: an access that would pass 0xFF, or whose address is wider than 8 bits, is refused, before its first byte (log
7); one of at least one byte that does neither is never refused. An access of no bytes at an 8-bit address does nothing, which
is the model's choice (log 16). -/
def Obligations.AccessPastEndIsRefused : Prop :=
  ∀ (s : State) (addr n v : Nat) (q : List HostOp) (ts : List Turn), s.turns = .host :: ts →
    s.hostQueue = .read addr n :: q ∨ s.hostQueue = .write addr n v :: q →
    (256 < addr + n ∨ 255 < addr → step s = .refused (.accessPastEnd addr n)) ∧
    (1 ≤ n → addr + n ≤ 256 → ∀ rf, step s ≠ .refused rf) ∧
    (n = 0 → addr ≤ 255 → step s = .next { s with turns := ts, hostQueue := q })

/-- R47, R140: an n-byte read of an idle block is n byte reads at ascending addresses, its result little-endian. -/
def Obligations.MultiByteReadIsLittleEndian : Prop :=
  ∀ (s : State) (addr n : Nat) (q : List HostOp), s.phase = .idle → s.turns = [] → s.hostQueue = .read addr n :: q →
    1 ≤ n → addr + n ≤ 256 →
    ∃ (t : State) (bs : List Byte), runSteps n s = .next t ∧ t.toRegs = s.toRegs ∧ t.hostQueue = q ∧
      t.readData = s.readData ++ bs ∧ bs.length = n ∧
      (∀ i, i < n → bs.getD i 0 = readByte s.toRegs (BitVec.ofNat 8 (addr + i))) ∧
      memRead s.toRegs addr n = some (numberOf bs)

/-- R47, R141: an n-byte write to an idle block is n byte writes at ascending addresses, byte i of the value to `addr + i`.
Where it starts at 0x00 its first byte is START: after a reserved word the block is idle and the later bytes are stored; after a
legal word the later bytes find the block busy and are ignored, said for host steps with no block step between them (the other
case: log 20). -/
def Obligations.MultiByteWriteIsAscending : Prop :=
  (∀ (s : State) (addr n v : Nat) (q : List HostOp), s.phase = .idle → s.turns = [] →
    s.hostQueue = .write addr n v :: q → 1 ≤ n → 1 ≤ addr → addr + n ≤ 256 →
    ∃ t : State, runSteps n s = .next t ∧ t.hostQueue = q ∧ t.readData = s.readData ∧
      t.toRegs = (List.range n).foldl
        (fun r i => writeByte r (BitVec.ofNat 8 (addr + i)) (BitVec.ofNat 8 (v / 256 ^ i))) s.toRegs) ∧
  (∀ (s : State) (n v : Nat) (q : List HostOp), s.phase = .idle → s.turns = [] →
    s.hostQueue = .write 0 n v :: q → 1 ≤ n → n ≤ 256 → v % 256 = 0 ∨ 6 ≤ v % 256 →
    ∃ t : State, runSteps n s = .next t ∧ t.hostQueue = q ∧ t.readData = s.readData ∧
      t.toRegs = (List.range (n - 1)).foldl
        (fun r i => writeByte r (BitVec.ofNat 8 (1 + i)) (BitVec.ofNat 8 (v / 256 ^ (1 + i))))
        { s.toRegs with cmd := BitVec.ofNat 8 v, done := true, ok := false, err := some .illegalCommand }) ∧
  (∀ (s : State) (n v : Nat) (i : Instr) (q : List HostOp) (ts : List Turn), s.phase = .idle →
    s.turns = List.replicate n .host ++ ts → s.hostQueue = .write 0 n v :: q → 1 ≤ n → n ≤ 256 →
    BitVec.ofNat 8 v = encode i →
    ∃ t u : State, runSteps n s = .next t ∧ exec i s = .next u ∧ t.toRegs = u.toRegs ∧ u.phase ≠ .idle ∧
      t.hostQueue = q ∧ t.turns = ts ∧ t.readData = s.readData)

/-- R72: a `WAIT` reads `STATUS` and is over when bit 1, `DONE`, is 1; that it stands in the queue as one entry is the
model's (log 17), and so is the exact value a poll reads while the block is busy (log 10). -/
def Obligations.WaitEndsWhenDone : Prop :=
  ∀ (s : State) (q : List HostOp) (ts : List Turn), s.turns = .host :: ts → s.hostQueue = .wait :: q →
    (s.done = true → step s = .next { s with turns := ts, hostQueue := q, readData := s.readData ++ [status s.toRegs] }) ∧
    (s.done = false → step s = .next { s with turns := ts, readData := s.readData ++ [status s.toRegs] })

/-! Reset, idling, invariants -/

/-- R29: after reset every register is 0, and so is every byte the host can read; `done_o` is 0. -/
def Obligations.ResetIsAllZero : Prop :=
  State.reset.tok.toList = List.replicate 48 0 ∧ State.reset.toklen = 0 ∧ State.reset.buf.toList = List.replicate 24 0 ∧
  State.reset.buflen = 0 ∧ State.reset.pid.toList = List.replicate 6 0 ∧ State.reset.uid.toList = List.replicate 6 0 ∧
  State.reset.key.toList = List.replicate 16 0 ∧ State.reset.ct.toList = List.replicate 16 0 ∧
  State.reset.pt.toList = List.replicate 16 0 ∧ State.reset.crc = 0 ∧ State.reset.uc = 0 ∧ State.reset.sc = 0 ∧
  State.reset.ts = 0 ∧ State.reset.cmd = 0 ∧ State.reset.phase = .idle ∧ State.reset.done = false ∧
  State.reset.ok = false ∧ State.reset.err = none ∧ doneOut State.reset.toRegs = false ∧
  ∀ a : Byte, readByte State.reset.toRegs a = 0

/-- R180, R181, R144: reset, busy or not: every register takes its reset value, no completion and no error is recorded, and
an idle block has no step of its own (its turn changes nothing, log 4). That the host's accesses go on afterwards is the
model's choice (log 13) and is not said here. -/
def Obligations.ResetAbandonsRunningCommand : Prop :=
  (∀ (s : State) (ts : List Turn), s.turns = .rst :: ts →
    ∃ t : State, step s = .next t ∧ t.toRegs = State.reset.toRegs ∧ t.turns = ts ∧ t.phase = .idle ∧ t.done = false ∧
      t.err = none) ∧
  (∀ (s : State) (ts : List Turn), s.phase = .idle → s.turns = .block :: ts → step s = .next { s with turns := ts })

/-- R25 and the pipeline's invariant, at reset. -/
def Obligations.BothInvariantsHoldAtReset : Prop := ControlInv State.reset.toRegs ∧ PipelineInv State.reset.toRegs

/-- R25: every step keeps the invariants of the flags, lengths and the running command. -/
def Obligations.EveryStepKeepsControlInv : Prop :=
  ∀ s t : State, ControlInv s.toRegs → step s = .next t → ControlInv t.toRegs

/-- R121 to R128, R130, R132: every step keeps what the pipeline has established, so a success is always the reading of a
payload whose CRC is right and a failure never shows a result. -/
def Obligations.EveryStepKeepsPipelineInv : Prop :=
  ∀ s t : State, ControlInv s.toRegs → PipelineInv s.toRegs → step s = .next t → PipelineInv t.toRegs

/-- R143, R144, R160: from a state that meets the invariant, with accesses in range, a step always answers a next state. -/
def Obligations.SafeStatesNeverStop : Prop :=
  ∀ s : State, ControlInv s.toRegs → AccessesInRange s → ∃ t, step s = .next t ∧ AccessesInRange t

/-- R143, R144, R190: every block step of a busy block brings the command nearer its end, and left to itself it ends within
the bound, at most 8 block steps. -/
def Obligations.EveryCommandEnds : Prop :=
  (∀ (s : State) (ts : List Turn), ControlInv s.toRegs → s.phase ≠ .idle → s.turns = .block :: ts →
    ∃ t, step s = .next t ∧ stepsLeft t.cmd t.phase < stepsLeft s.cmd s.phase) ∧
  (∀ s : State, ControlInv s.toRegs → s.phase ≠ .idle → s.turns = [] →
    ∃ (k : Nat) (t : State), 1 ≤ k ∧ k ≤ stepsLeft s.cmd s.phase ∧ runSteps k s = .next t ∧ t.phase = .idle ∧
      t.done = true) ∧
  (∀ (c : Byte) (p : Phase), stepsLeft c p ≤ 8)

/-- R25 item 4: but for reset, a block that is not fresh ("PHASE = 0 and DONE = 0") does not become so, and a fresh block
stays so until START: it ends exactly at the step that performs the first byte of a host write at 0x00. -/
def Obligations.FreshnessEndsAtFirstStart : Prop :=
  ∀ s t : State, ControlInv s.toRegs → (∀ ts, s.turns ≠ .rst :: ts) → step s = .next t →
    (¬ (s.phase = .idle ∧ s.done = false) → ¬ (t.phase = .idle ∧ t.done = false)) ∧
    (s.phase = .idle ∧ s.done = false →
      (¬ (t.phase = .idle ∧ t.done = false) ↔
        (∀ ts, s.turns ≠ .block :: ts) ∧ ∃ n v q, s.hostQueue = .write 0x00 n v :: q ∧ 1 ≤ n))
end

