-- ==== Sys2Proof/Laws/Flags.lean ====
section
/-! SUPPORT. The five parts of a `STATUS` byte, each taken out of the concatenation once. -/

namespace Sys2Proof.Machine

/-- A byte put together as R21 lays out `STATUS`, taken apart again. -/
theorem statusParts : ∀ (e : BitVec 4) (a b c d : Bool),
    let v : Byte := e ++ BitVec.ofBool a ++ BitVec.ofBool b ++ BitVec.ofBool c ++ BitVec.ofBool d
    v.getLsbD 0 = d ∧ v.getLsbD 1 = c ∧ v.getLsbD 2 = b ∧ v.getLsbD 3 = a ∧ v.extractLsb' 4 4 = e := by
  have h : ∀ n, n < 16 → ∀ a b c d : Bool,
      let v : Byte := BitVec.ofNat 4 n ++ BitVec.ofBool a ++ BitVec.ofBool b ++ BitVec.ofBool c ++ BitVec.ofBool d
      v.getLsbD 0 = d ∧ v.getLsbD 1 = c ∧ v.getLsbD 2 = b ∧ v.getLsbD 3 = a ∧ v.extractLsb' 4 4 = BitVec.ofNat 4 n := by
    decide +kernel
  intro e a b c d
  simpa using h e.toNat e.isLt a b c d

theorem status_parts (r : Regs) :
    (status r).getLsbD 0 = busy r ∧ (status r).getLsbD 1 = r.done ∧ (status r).getLsbD 2 = r.ok ∧
    (status r).getLsbD 3 = res r ∧ (status r).extractLsb' 4 4 = errCode r.err :=
  statusParts (errCode r.err) (res r) r.ok r.done (busy r)

theorem readByte_status (r : Regs) : readByte r 0x01 = status r := rfl

end Sys2Proof.Machine
end

