-- ==== Sys2Proof/Laws/Operands.lean ====
section
/-! SUPPORT. What the operand forms do: lengths, and partial writes of byte-array registers read back element by element. -/

namespace Sys2Proof.Machine

/-- Element by element, `overwrite` is the new byte where there is one and the old byte elsewhere. -/
theorem overwrite_getD (new old : List Byte) (i : Nat) (h : i < old.length) :
    (overwrite new old).getD i 0 = if i < new.length then new.getD i 0 else old.getD i 0 := by
  induction new generalizing old i with
  | nil => simp [overwrite]
  | cons b bs ih =>
    cases old with
    | nil => simp at h
    | cons o rest =>
      cases i with
      | zero => simp [overwrite]
      | succ k =>
        have hk : k < rest.length := by simpa using h
        simpa [overwrite] using ih rest k hk

/-- Overwriting the whole of a list gives the new list. -/
theorem overwrite_of_length_eq (new old : List Byte) (h : new.length = old.length) : overwrite new old = new := by
  induction new generalizing old with
  | nil => exact (List.length_eq_zero_iff.mp h.symm)
  | cons b bs ih =>
    cases old with
    | nil => simp at h
    | cons o rest => simp [overwrite, ih rest (by simpa using h)]

@[simp] theorem store_toList {n : Nat} (v : Vector Byte n) (bs : List Byte) :
    (store v bs).toList = overwrite bs v.toList := rfl

/-- A register filled completely holds exactly what was written. -/
theorem store_toList_of_length {n : Nat} (v : Vector Byte n) (bs : List Byte) (h : bs.length = n) :
    (store v bs).toList = bs := by
  rw [store_toList, overwrite_of_length_eq _ _ (by simpa using h)]

@[simp] theorem setCell_toList {n : Nat} (v : Vector Byte n) (i : Nat) (b : Byte) :
    (setCell v i b).toList = v.toList.set i b := rfl

/-- `X[i] <- b` read back. -/
theorem cell_setCell {n : Nat} (v : Vector Byte n) (i j : Nat) (b : Byte) (h : i < n) :
    cell (setCell v i b) j = if j = i then b else cell v j := by
  unfold cell
  rw [setCell_toList]
  by_cases hj : j = i
  · subst hj; simp [List.getD_eq_getElem?_getD, h]
  · have : i ≠ j := fun e => hj e.symm
    simp [List.getD_eq_getElem?_getD, hj, this]

/-- Partial writes read back. -/
theorem cell_store {n : Nat} (v : Vector Byte n) (bs : List Byte) (i : Nat) (h : i < n) :
    cell (store v bs) i = if i < bs.length then bs.getD i 0 else cell v i := by
  unfold cell
  rw [store_toList, overwrite_getD _ _ _ (by simpa using h)]

theorem slice_length {n : Nat} (v : Vector Byte n) (a len : Nat) : (slice v a len).length = min len (n - a) := by
  simp [slice]

end Sys2Proof.Machine
end

