-- ==== Sys2Proof/Laws/State.lean ====
section
/-! SUPPORT. One lemma per field per update of the registers, so that no proof unfolds a record update. -/

namespace Sys2Proof.Machine

variable (s : State) (r : Regs)

/-! `State.withRegs` -/

@[simp] theorem withRegs_toRegs : (s.withRegs r).toRegs = r := rfl
@[simp] theorem withRegs_hostQueue : (s.withRegs r).hostQueue = s.hostQueue := rfl
@[simp] theorem withRegs_turns : (s.withRegs r).turns = s.turns := rfl
@[simp] theorem withRegs_readData : (s.withRegs r).readData = s.readData := rfl
@[simp] theorem withRegs_self : s.withRegs s.toRegs = s := rfl
@[simp] theorem withRegs_withRegs (q : Regs) : (s.withRegs r).withRegs q = s.withRegs q := rfl

/-! `fail e r` -/

@[simp] theorem fail_tok (e : ErrKind) : (fail e r).tok = r.tok := rfl
@[simp] theorem fail_toklen (e : ErrKind) : (fail e r).toklen = r.toklen := rfl
@[simp] theorem fail_buf (e : ErrKind) : (fail e r).buf = r.buf := rfl
@[simp] theorem fail_buflen (e : ErrKind) : (fail e r).buflen = r.buflen := rfl
@[simp] theorem fail_pid (e : ErrKind) : (fail e r).pid = r.pid := rfl
@[simp] theorem fail_uid (e : ErrKind) : (fail e r).uid = r.uid := rfl
@[simp] theorem fail_key (e : ErrKind) : (fail e r).key = r.key := rfl
@[simp] theorem fail_ct (e : ErrKind) : (fail e r).ct = r.ct := rfl
@[simp] theorem fail_pt (e : ErrKind) : (fail e r).pt = r.pt := rfl
@[simp] theorem fail_crc (e : ErrKind) : (fail e r).crc = r.crc := rfl
@[simp] theorem fail_uc (e : ErrKind) : (fail e r).uc = r.uc := rfl
@[simp] theorem fail_sc (e : ErrKind) : (fail e r).sc = r.sc := rfl
@[simp] theorem fail_ts (e : ErrKind) : (fail e r).ts = r.ts := rfl
@[simp] theorem fail_cmd (e : ErrKind) : (fail e r).cmd = r.cmd := rfl
@[simp] theorem fail_phase (e : ErrKind) : (fail e r).phase = .idle := rfl
@[simp] theorem fail_done (e : ErrKind) : (fail e r).done = true := rfl
@[simp] theorem fail_ok (e : ErrKind) : (fail e r).ok = false := rfl
@[simp] theorem fail_err (e : ErrKind) : (fail e r).err = some e := rfl

/-! `complete r` -/

@[simp] theorem complete_tok : (complete r).tok = r.tok := rfl
@[simp] theorem complete_toklen : (complete r).toklen = r.toklen := rfl
@[simp] theorem complete_buf : (complete r).buf = r.buf := rfl
@[simp] theorem complete_buflen : (complete r).buflen = r.buflen := rfl
@[simp] theorem complete_pid : (complete r).pid = r.pid := rfl
@[simp] theorem complete_uid : (complete r).uid = r.uid := rfl
@[simp] theorem complete_key : (complete r).key = r.key := rfl
@[simp] theorem complete_ct : (complete r).ct = r.ct := rfl
@[simp] theorem complete_pt : (complete r).pt = r.pt := rfl
@[simp] theorem complete_crc : (complete r).crc = r.crc := rfl
@[simp] theorem complete_uc : (complete r).uc = r.uc := rfl
@[simp] theorem complete_sc : (complete r).sc = r.sc := rfl
@[simp] theorem complete_ts : (complete r).ts = r.ts := rfl
@[simp] theorem complete_cmd : (complete r).cmd = r.cmd := rfl
@[simp] theorem complete_phase : (complete r).phase = .idle := rfl
@[simp] theorem complete_done : (complete r).done = true := rfl
@[simp] theorem complete_ok : (complete r).ok = true := rfl
@[simp] theorem complete_err : (complete r).err = none := rfl

/-! `illegalCommand w r` -/

@[simp] theorem illegalCommand_tok (w : Byte) : (illegalCommand w r).tok = r.tok := rfl
@[simp] theorem illegalCommand_toklen (w : Byte) : (illegalCommand w r).toklen = r.toklen := rfl
@[simp] theorem illegalCommand_buf (w : Byte) : (illegalCommand w r).buf = r.buf := rfl
@[simp] theorem illegalCommand_buflen (w : Byte) : (illegalCommand w r).buflen = r.buflen := rfl
@[simp] theorem illegalCommand_pid (w : Byte) : (illegalCommand w r).pid = r.pid := rfl
@[simp] theorem illegalCommand_uid (w : Byte) : (illegalCommand w r).uid = r.uid := rfl
@[simp] theorem illegalCommand_key (w : Byte) : (illegalCommand w r).key = r.key := rfl
@[simp] theorem illegalCommand_ct (w : Byte) : (illegalCommand w r).ct = r.ct := rfl
@[simp] theorem illegalCommand_pt (w : Byte) : (illegalCommand w r).pt = r.pt := rfl
@[simp] theorem illegalCommand_crc (w : Byte) : (illegalCommand w r).crc = r.crc := rfl
@[simp] theorem illegalCommand_uc (w : Byte) : (illegalCommand w r).uc = r.uc := rfl
@[simp] theorem illegalCommand_sc (w : Byte) : (illegalCommand w r).sc = r.sc := rfl
@[simp] theorem illegalCommand_ts (w : Byte) : (illegalCommand w r).ts = r.ts := rfl
@[simp] theorem illegalCommand_cmd (w : Byte) : (illegalCommand w r).cmd = w := rfl
@[simp] theorem illegalCommand_phase (w : Byte) : (illegalCommand w r).phase = .idle := rfl
@[simp] theorem illegalCommand_done (w : Byte) : (illegalCommand w r).done = true := rfl
@[simp] theorem illegalCommand_ok (w : Byte) : (illegalCommand w r).ok = false := rfl
@[simp] theorem illegalCommand_err (w : Byte) : (illegalCommand w r).err = some .illegalCommand := rfl

/-! `start w p c r` -/

@[simp] theorem start_tok (w : Byte) (p : Phase) (c : Regs → Regs) : (start w p c r).tok = (c r).tok := rfl
@[simp] theorem start_toklen (w : Byte) (p : Phase) (c : Regs → Regs) : (start w p c r).toklen = (c r).toklen := rfl
@[simp] theorem start_buf (w : Byte) (p : Phase) (c : Regs → Regs) : (start w p c r).buf = (c r).buf := rfl
@[simp] theorem start_buflen (w : Byte) (p : Phase) (c : Regs → Regs) : (start w p c r).buflen = (c r).buflen := rfl
@[simp] theorem start_pid (w : Byte) (p : Phase) (c : Regs → Regs) : (start w p c r).pid = (c r).pid := rfl
@[simp] theorem start_uid (w : Byte) (p : Phase) (c : Regs → Regs) : (start w p c r).uid = (c r).uid := rfl
@[simp] theorem start_key (w : Byte) (p : Phase) (c : Regs → Regs) : (start w p c r).key = (c r).key := rfl
@[simp] theorem start_ct (w : Byte) (p : Phase) (c : Regs → Regs) : (start w p c r).ct = (c r).ct := rfl
@[simp] theorem start_pt (w : Byte) (p : Phase) (c : Regs → Regs) : (start w p c r).pt = (c r).pt := rfl
@[simp] theorem start_crc (w : Byte) (p : Phase) (c : Regs → Regs) : (start w p c r).crc = (c r).crc := rfl
@[simp] theorem start_uc (w : Byte) (p : Phase) (c : Regs → Regs) : (start w p c r).uc = (c r).uc := rfl
@[simp] theorem start_sc (w : Byte) (p : Phase) (c : Regs → Regs) : (start w p c r).sc = (c r).sc := rfl
@[simp] theorem start_ts (w : Byte) (p : Phase) (c : Regs → Regs) : (start w p c r).ts = (c r).ts := rfl
@[simp] theorem start_cmd (w : Byte) (p : Phase) (c : Regs → Regs) : (start w p c r).cmd = w := rfl
@[simp] theorem start_phase (w : Byte) (p : Phase) (c : Regs → Regs) : (start w p c r).phase = p := rfl
@[simp] theorem start_done (w : Byte) (p : Phase) (c : Regs → Regs) : (start w p c r).done = false := rfl
@[simp] theorem start_ok (w : Byte) (p : Phase) (c : Regs → Regs) : (start w p c r).ok = false := rfl
@[simp] theorem start_err (w : Byte) (p : Phase) (c : Regs → Regs) : (start w p c r).err = none := rfl

/-! `clearOtp r` -/

@[simp] theorem clearOtp_tok : (clearOtp r).tok = r.tok := rfl
@[simp] theorem clearOtp_toklen : (clearOtp r).toklen = r.toklen := rfl
@[simp] theorem clearOtp_buf : (clearOtp r).buf = zeros 24 := rfl
@[simp] theorem clearOtp_buflen : (clearOtp r).buflen = 0 := rfl
@[simp] theorem clearOtp_pid : (clearOtp r).pid = r.pid := rfl
@[simp] theorem clearOtp_uid : (clearOtp r).uid = r.uid := rfl
@[simp] theorem clearOtp_key : (clearOtp r).key = r.key := rfl
@[simp] theorem clearOtp_ct : (clearOtp r).ct = zeros 16 := rfl
@[simp] theorem clearOtp_pt : (clearOtp r).pt = zeros 16 := rfl
@[simp] theorem clearOtp_crc : (clearOtp r).crc = 0 := rfl
@[simp] theorem clearOtp_uc : (clearOtp r).uc = 0 := rfl
@[simp] theorem clearOtp_sc : (clearOtp r).sc = 0 := rfl
@[simp] theorem clearOtp_ts : (clearOtp r).ts = 0 := rfl
@[simp] theorem clearOtp_cmd : (clearOtp r).cmd = r.cmd := rfl
@[simp] theorem clearOtp_phase : (clearOtp r).phase = r.phase := rfl
@[simp] theorem clearOtp_done : (clearOtp r).done = r.done := rfl
@[simp] theorem clearOtp_ok : (clearOtp r).ok = r.ok := rfl
@[simp] theorem clearOtp_err : (clearOtp r).err = r.err := rfl

/-! `clearMhdec r` -/

@[simp] theorem clearMhdec_tok : (clearMhdec r).tok = r.tok := rfl
@[simp] theorem clearMhdec_toklen : (clearMhdec r).toklen = r.toklen := rfl
@[simp] theorem clearMhdec_buf : (clearMhdec r).buf = zeros 24 := rfl
@[simp] theorem clearMhdec_buflen : (clearMhdec r).buflen = 0 := rfl
@[simp] theorem clearMhdec_pid : (clearMhdec r).pid = r.pid := rfl
@[simp] theorem clearMhdec_uid : (clearMhdec r).uid = r.uid := rfl
@[simp] theorem clearMhdec_key : (clearMhdec r).key = r.key := rfl
@[simp] theorem clearMhdec_ct : (clearMhdec r).ct = r.ct := rfl
@[simp] theorem clearMhdec_pt : (clearMhdec r).pt = r.pt := rfl
@[simp] theorem clearMhdec_crc : (clearMhdec r).crc = r.crc := rfl
@[simp] theorem clearMhdec_uc : (clearMhdec r).uc = r.uc := rfl
@[simp] theorem clearMhdec_sc : (clearMhdec r).sc = r.sc := rfl
@[simp] theorem clearMhdec_ts : (clearMhdec r).ts = r.ts := rfl
@[simp] theorem clearMhdec_cmd : (clearMhdec r).cmd = r.cmd := rfl
@[simp] theorem clearMhdec_phase : (clearMhdec r).phase = r.phase := rfl
@[simp] theorem clearMhdec_done : (clearMhdec r).done = r.done := rfl
@[simp] theorem clearMhdec_ok : (clearMhdec r).ok = r.ok := rfl
@[simp] theorem clearMhdec_err : (clearMhdec r).err = r.err := rfl

/-! `clearMhenc r` -/

@[simp] theorem clearMhenc_tok : (clearMhenc r).tok = zeros 48 := rfl
@[simp] theorem clearMhenc_toklen : (clearMhenc r).toklen = 0 := rfl
@[simp] theorem clearMhenc_buf : (clearMhenc r).buf = r.buf := rfl
@[simp] theorem clearMhenc_buflen : (clearMhenc r).buflen = r.buflen := rfl
@[simp] theorem clearMhenc_pid : (clearMhenc r).pid = r.pid := rfl
@[simp] theorem clearMhenc_uid : (clearMhenc r).uid = r.uid := rfl
@[simp] theorem clearMhenc_key : (clearMhenc r).key = r.key := rfl
@[simp] theorem clearMhenc_ct : (clearMhenc r).ct = r.ct := rfl
@[simp] theorem clearMhenc_pt : (clearMhenc r).pt = r.pt := rfl
@[simp] theorem clearMhenc_crc : (clearMhenc r).crc = r.crc := rfl
@[simp] theorem clearMhenc_uc : (clearMhenc r).uc = r.uc := rfl
@[simp] theorem clearMhenc_sc : (clearMhenc r).sc = r.sc := rfl
@[simp] theorem clearMhenc_ts : (clearMhenc r).ts = r.ts := rfl
@[simp] theorem clearMhenc_cmd : (clearMhenc r).cmd = r.cmd := rfl
@[simp] theorem clearMhenc_phase : (clearMhenc r).phase = r.phase := rfl
@[simp] theorem clearMhenc_done : (clearMhenc r).done = r.done := rfl
@[simp] theorem clearMhenc_ok : (clearMhenc r).ok = r.ok := rfl
@[simp] theorem clearMhenc_err : (clearMhenc r).err = r.err := rfl

/-! `clearCrc16 r` -/

@[simp] theorem clearCrc16_tok : (clearCrc16 r).tok = r.tok := rfl
@[simp] theorem clearCrc16_toklen : (clearCrc16 r).toklen = r.toklen := rfl
@[simp] theorem clearCrc16_buf : (clearCrc16 r).buf = r.buf := rfl
@[simp] theorem clearCrc16_buflen : (clearCrc16 r).buflen = r.buflen := rfl
@[simp] theorem clearCrc16_pid : (clearCrc16 r).pid = r.pid := rfl
@[simp] theorem clearCrc16_uid : (clearCrc16 r).uid = r.uid := rfl
@[simp] theorem clearCrc16_key : (clearCrc16 r).key = r.key := rfl
@[simp] theorem clearCrc16_ct : (clearCrc16 r).ct = r.ct := rfl
@[simp] theorem clearCrc16_pt : (clearCrc16 r).pt = r.pt := rfl
@[simp] theorem clearCrc16_crc : (clearCrc16 r).crc = 0 := rfl
@[simp] theorem clearCrc16_uc : (clearCrc16 r).uc = r.uc := rfl
@[simp] theorem clearCrc16_sc : (clearCrc16 r).sc = r.sc := rfl
@[simp] theorem clearCrc16_ts : (clearCrc16 r).ts = r.ts := rfl
@[simp] theorem clearCrc16_cmd : (clearCrc16 r).cmd = r.cmd := rfl
@[simp] theorem clearCrc16_phase : (clearCrc16 r).phase = r.phase := rfl
@[simp] theorem clearCrc16_done : (clearCrc16 r).done = r.done := rfl
@[simp] theorem clearCrc16_ok : (clearCrc16 r).ok = r.ok := rfl
@[simp] theorem clearCrc16_err : (clearCrc16 r).err = r.err := rfl

/-! `clearAesdec r` -/

@[simp] theorem clearAesdec_tok : (clearAesdec r).tok = r.tok := rfl
@[simp] theorem clearAesdec_toklen : (clearAesdec r).toklen = r.toklen := rfl
@[simp] theorem clearAesdec_buf : (clearAesdec r).buf = r.buf := rfl
@[simp] theorem clearAesdec_buflen : (clearAesdec r).buflen = r.buflen := rfl
@[simp] theorem clearAesdec_pid : (clearAesdec r).pid = r.pid := rfl
@[simp] theorem clearAesdec_uid : (clearAesdec r).uid = r.uid := rfl
@[simp] theorem clearAesdec_key : (clearAesdec r).key = r.key := rfl
@[simp] theorem clearAesdec_ct : (clearAesdec r).ct = r.ct := rfl
@[simp] theorem clearAesdec_pt : (clearAesdec r).pt = zeros 16 := rfl
@[simp] theorem clearAesdec_crc : (clearAesdec r).crc = r.crc := rfl
@[simp] theorem clearAesdec_uc : (clearAesdec r).uc = r.uc := rfl
@[simp] theorem clearAesdec_sc : (clearAesdec r).sc = r.sc := rfl
@[simp] theorem clearAesdec_ts : (clearAesdec r).ts = r.ts := rfl
@[simp] theorem clearAesdec_cmd : (clearAesdec r).cmd = r.cmd := rfl
@[simp] theorem clearAesdec_phase : (clearAesdec r).phase = r.phase := rfl
@[simp] theorem clearAesdec_done : (clearAesdec r).done = r.done := rfl
@[simp] theorem clearAesdec_ok : (clearAesdec r).ok = r.ok := rfl
@[simp] theorem clearAesdec_err : (clearAesdec r).err = r.err := rfl

/-! The surroundings after the steps that do not touch them. -/

@[simp] theorem hostReadByte_toRegs (a : Byte) : (hostReadByte a s).toRegs = s.toRegs := rfl
@[simp] theorem hostReadByte_hostQueue (a : Byte) : (hostReadByte a s).hostQueue = s.hostQueue := rfl
@[simp] theorem hostReadByte_turns (a : Byte) : (hostReadByte a s).turns = s.turns := rfl
@[simp] theorem resetBlock_toRegs : (resetBlock s).toRegs = Regs.reset := rfl
@[simp] theorem resetBlock_hostQueue : (resetBlock s).hostQueue = s.hostQueue := rfl
@[simp] theorem resetBlock_turns : (resetBlock s).turns = s.turns := rfl
@[simp] theorem resetBlock_readData : (resetBlock s).readData = s.readData := rfl

end Sys2Proof.Machine
end

