-- ==== Sys2Proof/Laws/Ops.lean ====
section
/-! SUPPORT. What the shared operations of the sequencer can do, said once. -/

namespace Sys2Proof.Machine

/-- The end of a phase: the error it raised, or its successor (R144). -/
theorem endPhase_cases (n : Next) (x : Regs × Option ErrKind) :
    (∃ e, x.2 = some e ∧ endPhase n x = fail e x.1) ∨
    (x.2 = none ∧ ∃ p, n = .goto p ∧ endPhase n x = { x.1 with phase := p }) ∨
    (x.2 = none ∧ n = .finish ∧ endPhase n x = complete x.1) := by
  obtain ⟨r, _ | e⟩ := x
  · cases n with
    | goto p => exact .inr (.inl ⟨rfl, p, rfl, rfl⟩)
    | finish => exact .inr (.inr ⟨rfl, rfl, rfl⟩)
  · exact .inl ⟨e, rfl, by cases n <;> rfl⟩

/-- Everything one step of a command can do. -/
theorem runCommand_cases (i : Instr) (first : Phase) (clear : Regs → Regs) (chain : Phase → Option (Regs → Regs))
    (s : State) :
    (s.phase = .idle ∧ runCommand i first clear chain s = .next (s.withRegs (start (encode i) first clear s.toRegs))) ∨
    (s.phase ≠ .idle ∧ s.cmd = encode i ∧ ∃ f, chain s.phase = some f ∧
      runCommand i first clear chain s = .next (s.withRegs (f s.toRegs))) ∨
    (s.phase ≠ .idle ∧ s.cmd = encode i ∧ chain s.phase = none ∧
      runCommand i first clear chain s = .fault (.noTransition s.cmd s.phase)) ∨
    (s.phase ≠ .idle ∧ s.cmd ≠ encode i ∧ runCommand i first clear chain s = .next s) := by
  by_cases hp : s.phase = .idle
  · exact .inl ⟨hp, by simp [runCommand, hp]⟩
  by_cases hc : s.cmd = encode i
  · cases hf : chain s.phase with
    | none => exact .inr (.inr (.inl ⟨hp, hc, rfl, by simp [runCommand, hp, hc, hf]⟩))
    | some f => exact .inr (.inl ⟨hp, hc, f, rfl, by simp [runCommand, hp, hc, hf]⟩)
  · exact .inr (.inr (.inr ⟨hp, hc, by simp [runCommand, hp, hc]⟩))

/-- START of a command on an idle block always has its effect (R142). -/
theorem runCommand_idle (i : Instr) (first : Phase) (clear : Regs → Regs) (chain : Phase → Option (Regs → Regs))
    (s : State) (h : s.phase = .idle) :
    runCommand i first clear chain s = .next (s.withRegs (start (encode i) first clear s.toRegs)) := by
  simp [runCommand, h]

/-- A phase of the running command (R144). -/
theorem runCommand_running (i : Instr) (first : Phase) (clear : Regs → Regs) (chain : Phase → Option (Regs → Regs))
    (s : State) (f : Regs → Regs) (h : s.phase ≠ .idle) (hc : s.cmd = encode i) (hf : chain s.phase = some f) :
    runCommand i first clear chain s = .next (s.withRegs (f s.toRegs)) := by
  simp [runCommand, h, hc, hf]

/-- A step of a command changes registers only: the surroundings stay (R8). -/
theorem runCommand_surroundings (i : Instr) (first : Phase) (clear : Regs → Regs)
    (chain : Phase → Option (Regs → Regs)) (s t : State) (h : runCommand i first clear chain s = .next t) :
    t.hostQueue = s.hostQueue ∧ t.turns = s.turns ∧ t.readData = s.readData := by
  obtain ⟨-, he⟩ | ⟨-, -, f, -, he⟩ | ⟨-, -, -, he⟩ | ⟨-, -, he⟩ := runCommand_cases i first clear chain s <;>
    rw [he] at h <;> cases h <;> exact ⟨rfl, rfl, rfl⟩

/-- No command refuses. -/
theorem runCommand_not_refused (i : Instr) (first : Phase) (clear : Regs → Regs)
    (chain : Phase → Option (Regs → Regs)) (s : State) (q : Refusal) :
    runCommand i first clear chain s ≠ .refused q := by
  obtain ⟨-, he⟩ | ⟨-, -, f, -, he⟩ | ⟨-, -, -, he⟩ | ⟨-, -, he⟩ := runCommand_cases i first clear chain s <;>
    rw [he] <;> exact fun h => nomatch h

/-- The first phase of each command (R143). -/
def firstPhase (i : Instr) : Phase :=
  match i with
  | .otp | .mhdec => .pMhdec
  | .mhenc => .pMhenc
  | .crc16 => .pCrcbuf
  | .aesdec => .pAes

/-- What START of each command clears (R19). -/
def clearOf (i : Instr) : Regs → Regs :=
  match i with
  | .otp => clearOtp
  | .mhdec => clearMhdec
  | .mhenc => clearMhenc
  | .crc16 => clearCrc16
  | .aesdec => clearAesdec

/-- Each command's row of the transition table (R143). -/
def chainOf (i : Instr) : Phase → Option (Regs → Regs) :=
  match i with
  | .otp => chainOtp
  | .mhdec => chainMhdec
  | .mhenc => chainMhenc
  | .crc16 => chainCrc16
  | .aesdec => chainAesdec

/-- Every meaning is the one shared operation, over that command's first phase, cleared registers and chain. -/
theorem exec_eq_runCommand (i : Instr) (s : State) :
    exec i s = runCommand i (firstPhase i) (clearOf i) (chainOf i) s := by
  cases i <;> rfl

/-- START of any command on an idle block (R142). -/
theorem exec_idle (i : Instr) (s : State) (h : s.phase = .idle) :
    exec i s = .next (s.withRegs (start (encode i) (firstPhase i) (clearOf i) s.toRegs)) := by
  rw [exec_eq_runCommand, runCommand_idle _ _ _ _ _ h]

/-- A phase of any running command (R144). -/
theorem exec_running (i : Instr) (s : State) (f : Regs → Regs) (h : s.phase ≠ .idle) (hc : s.cmd = encode i)
    (hf : chainOf i s.phase = some f) : exec i s = .next (s.withRegs (f s.toRegs)) := by
  rw [exec_eq_runCommand, runCommand_running _ _ _ _ _ f h hc hf]

/-- Everything a command's step can answer with a next state. -/
theorem exec_next_cases (i : Instr) (s t : State) (h : exec i s = .next t) :
    (s.phase = .idle ∧ t = s.withRegs (start (encode i) (firstPhase i) (clearOf i) s.toRegs)) ∨
    (s.phase ≠ .idle ∧ s.cmd = encode i ∧ ∃ f, chainOf i s.phase = some f ∧ t = s.withRegs (f s.toRegs)) ∨
    (s.phase ≠ .idle ∧ s.cmd ≠ encode i ∧ t = s) := by
  rw [exec_eq_runCommand] at h
  obtain ⟨hp, he⟩ | ⟨hp, hc, f, hf, he⟩ | ⟨-, -, -, he⟩ | ⟨hp, hc, he⟩ :=
    runCommand_cases i (firstPhase i) (clearOf i) (chainOf i) s <;> rw [he] at h <;> cases h
  · exact .inl ⟨hp, rfl⟩
  · exact .inr (.inl ⟨hp, hc, f, hf, rfl⟩)
  · exact .inr (.inr ⟨hp, hc, rfl⟩)

end Sys2Proof.Machine
end

