-- ==== Sys2Proof/Laws/PerInstr.lean ====
section
/-! SUPPORT. A statement about every command as an encoding: its word has the shape R60 gives format `C`. -/

namespace Sys2Proof.Laws.WordShape

/-- The word of a command has well-formed fields, and the host's table entry point reads the command from it (R60). -/
def Statement (i : Instr) : Prop :=
  (fieldsOf (encode i)).wellFormed = true ∧ decodeTableWord 8 (encode i).toNat = some i

theorem otp : Statement .otp := by unfold Statement; decide
theorem mhdec : Statement .mhdec := by unfold Statement; decide
theorem mhenc : Statement .mhenc := by unfold Statement; decide
theorem crc16 : Statement .crc16 := by unfold Statement; decide
theorem aesdec : Statement .aesdec := by unfold Statement; decide

end Sys2Proof.Laws.WordShape
end

