-- ==== Sys2Proof/Laws/RegisterMap.lean ====
section
/-! SUPPORT. The register space as a list of cells is canonical whatever the registers hold, and reading it is reading the
register space. -/

namespace Sys2Proof.Machine

/-- The cells of the register space are in canonical form, in every state. -/
theorem memoryOf_wf (r : Regs) : Memory.wf (memoryOf r) := by
  refine ⟨?_, ?_⟩
  · refine List.Pairwise.filter _ ?_
    rw [List.pairwise_map]
    exact List.pairwise_lt_range
  · intro c hc
    simpa using (List.mem_filter.mp hc).2

/-- The map's rows lie inside the space and do not overlap (R19 "Registers do not alias", R41). -/
theorem registerMap_disjoint :
    registerMap.Pairwise (fun g h => g.base + g.size ≤ h.base) ∧ ∀ g ∈ registerMap, g.base + g.size ≤ Config.regSpace := by
  decide

/-- An access of at least one byte has a meaning exactly when it ends in the space (R47). -/
theorem accessOk_iff_of_pos (addr n : Nat) (h : 1 ≤ n) : accessOk addr n ↔ addr + n ≤ 256 := by
  simp only [accessOk, Config.regSpace]; omega

/-- What is left of an access with a meaning has one (R47). -/
theorem accessOk_rest (addr n : Nat) (h : accessOk addr (n + 1)) (hn : n ≠ 0) : accessOk (addr + 1) n := by
  simp only [accessOk, Config.regSpace] at *; omega

/-- What `locate` answers lies inside its row. -/
theorem locate_inside (a : Byte) (g : Region) (i : Nat) (h : locate a = some (g, i)) :
    g ∈ registerMap ∧ i < g.size ∧ a.toNat = g.base + i := by
  unfold locate at h
  split at h
  next g' hf =>
    cases h
    have hp := List.find?_some hf
    simp only [Bool.and_eq_true, decide_eq_true_eq] at hp
    exact ⟨List.mem_of_find?_eq_some hf, by omega, by omega⟩
  next => cases h

end Sys2Proof.Machine
end

