-- ==== Sys2Proof/Laws/Run.lean ====
section
/-! SUPPORT. Runs of several steps: taken apart step by step, and equal to the host's own run. -/

namespace Sys2Proof.Machine

@[simp] theorem runSteps_zero (s : State) : runSteps 0 s = .next s := rfl

/-- The first step of a run that does not stop. -/
theorem runSteps_succ_next (k : Nat) (s t : State) (h : step s = .next t) : runSteps (k + 1) s = runSteps k t := by
  simp [runSteps, h]

theorem runSteps_add_next (j k : Nat) (s t : State) (h : runSteps j s = .next t) :
    runSteps (j + k) s = runSteps k t := by
  induction j generalizing s with
  | zero => cases h; simp
  | succ n ih =>
    cases hs : step s with
    | next u => rw [runSteps_succ_next n s u hs] at h; rw [show n + 1 + k = (n + k) + 1 by omega,
        runSteps_succ_next _ _ u hs]; exact ih u h
    | fault f => simp [runSteps, hs] at h
    | refused q => simp [runSteps, hs] at h

/-- `runSteps` is the host's `Core.run` of this machine. -/
theorem runSteps_eq_core_run (n : Nat) (s : State) : runSteps n s = Host.Core.run Sys2Proof.core n s := by
  induction n generalizing s with
  | zero => rfl
  | succ k ih =>
    unfold runSteps
    simp only [Host.Core.run]
    cases h : step s with
    | next t => rw [show Sys2Proof.core.step s = .next t from h]; exact ih t
    | fault f => rw [show Sys2Proof.core.step s = .fault f from h]; rfl
    | refused q => rw [show Sys2Proof.core.step s = .refused q from h]; rfl

end Sys2Proof.Machine
end

