-- ==== Sys2Proof/Laws/Step.lean ====
section
/-! SUPPORT. What one turn can do, said once for the host's access, the block's step and the whole step. -/

namespace Sys2Proof.Machine

/-- What a byte the host writes can do: nothing while busy, START at 0x00, a store elsewhere (R141). -/
theorem hostWriteByte_cases (a b : Byte) (s : State) :
    (s.phase ≠ .idle ∧ hostWriteByte a b s = .next s) ∨
    (s.phase = .idle ∧ a = 0x00 ∧ hostWriteByte a b s = startWord b s) ∨
    (s.phase = .idle ∧ a ≠ 0x00 ∧ hostWriteByte a b s = .next (s.withRegs (writeByte s.toRegs a b))) := by
  by_cases hp : s.phase = .idle
  · by_cases ha : a = 0x00
    · exact .inr (.inl ⟨hp, ha, by simp [hostWriteByte, hp, ha]⟩)
    · exact .inr (.inr ⟨hp, ha, by unfold hostWriteByte; rw [if_neg (by simp [hp]), if_neg ha]⟩)
  · exact .inl ⟨hp, by simp [hostWriteByte, hp]⟩

/-- What a command word can do at START: run its command, or end at once as `IllegalCommand` (R142, R146). -/
theorem startWord_cases (w : Byte) (s : State) :
    (∃ i, decode w = .ok i ∧ startWord w s = exec i s) ∨
    (∃ e, decode w = .error e ∧ startWord w s = .next (s.withRegs (illegalCommand w s.toRegs))) := by
  unfold startWord
  cases hd : decode w with
  | ok i => exact .inl ⟨i, rfl, rfl⟩
  | error e => exact .inr ⟨e, rfl, rfl⟩

/-- What the block's step can do (R144). -/
theorem blockStep_cases (s : State) :
    (s.phase = .idle ∧ blockStep s = .next s) ∨
    (s.phase ≠ .idle ∧ ∃ i, decode s.cmd = .ok i ∧ blockStep s = exec i s) ∨
    (s.phase ≠ .idle ∧ (∃ e, decode s.cmd = .error e) ∧ blockStep s = .fault (.noTransition s.cmd s.phase)) := by
  by_cases hp : s.phase = .idle
  · exact .inl ⟨hp, by simp [blockStep, hp]⟩
  · cases hd : decode s.cmd with
    | ok i => exact .inr (.inl ⟨hp, i, rfl, by simp [blockStep, hp, hd]⟩)
    | error e => exact .inr (.inr ⟨hp, ⟨e, rfl⟩, by simp [blockStep, hp, hd]⟩)

/-- Whose turn the next step is (R8, R180). -/
theorem step_cases (s : State) :
    (∃ ts, s.turns = .host :: ts ∧ step s = hostStep { s with turns := ts }) ∨
    (∃ ts, s.turns = .block :: ts ∧ step s = blockStep { s with turns := ts }) ∨
    (∃ ts, s.turns = .rst :: ts ∧ step s = .next (resetBlock { s with turns := ts })) ∨
    (s.turns = [] ∧ s.phase = .idle ∧ step s = hostStep s) ∨
    (s.turns = [] ∧ s.phase ≠ .idle ∧ step s = blockStep s) := by
  unfold step takeTurn
  cases ht : s.turns with
  | nil =>
    by_cases hp : s.phase = .idle
    · exact .inr (.inr (.inr (.inl ⟨rfl, hp, by simp [hp]⟩)))
    · exact .inr (.inr (.inr (.inr ⟨rfl, hp, by simp [hp]⟩)))
  | cons t ts =>
    cases t with
    | host => exact .inl ⟨ts, rfl, rfl⟩
    | block => exact .inr (.inl ⟨ts, rfl, rfl⟩)
    | rst => exact .inr (.inr (.inl ⟨ts, rfl, rfl⟩))

/-- The register record after one step: every way it can come about. -/
inductive RegsAfter (r : Regs) : Regs → Prop where
  /-- A read, an ignored write, a turn of an agent without a step. -/
  | same : RegsAfter r r
  /-- The event `rst` (R180). -/
  | rst : RegsAfter r Regs.reset
  /-- A byte stored in an idle block (R141). -/
  | stored (a b : Byte) : r.phase = .idle → a ≠ 0x00 → RegsAfter r (writeByte r a b)
  /-- START of a reserved word (R146). -/
  | illegal (w : Byte) (e : DecodeError) : r.phase = .idle → decode w = .error e → RegsAfter r (illegalCommand w r)
  /-- START of a command (R142). -/
  | started (i : Instr) : r.phase = .idle → RegsAfter r (start (encode i) (firstPhase i) (clearOf i) r)
  /-- A phase of the running command (R144). -/
  | phase (i : Instr) (f : Regs → Regs) : r.phase ≠ .idle → r.cmd = encode i → chainOf i r.phase = some f →
      RegsAfter r (f r)

theorem decode_ok_eq_encode : ∀ (w : Byte) (i : Instr), decode w = .ok i → w = encode i := by
  have h : ∀ n, n < 256 → ∀ i ∈ [Instr.otp, .mhdec, .mhenc, .crc16, .aesdec],
      decode (BitVec.ofNat 8 n) = .ok i → BitVec.ofNat 8 n = encode i := by decide +kernel
  intro w i hw
  simpa using h w.toNat w.isLt i (by cases i <;> simp) (by simpa using hw)

theorem exec_regsAfter (i : Instr) (s t : State) (h : exec i s = .next t) : RegsAfter s.toRegs t.toRegs := by
  obtain ⟨hp, rfl⟩ | ⟨hp, hc, f, hf, rfl⟩ | ⟨-, -, rfl⟩ := exec_next_cases i s t h
  · exact .started i hp
  · exact .phase i f hp hc hf
  · exact .same

theorem startWord_regsAfter (w : Byte) (s t : State) (hp : s.phase = .idle) (h : startWord w s = .next t) :
    RegsAfter s.toRegs t.toRegs := by
  obtain ⟨i, -, he⟩ | ⟨e, hd, he⟩ := startWord_cases w s <;> rw [he] at h
  · exact exec_regsAfter i s t h
  · cases h; exact .illegal w e hp hd

theorem hostWriteByte_regsAfter (a b : Byte) (s t : State) (h : hostWriteByte a b s = .next t) :
    RegsAfter s.toRegs t.toRegs := by
  obtain ⟨-, he⟩ | ⟨hp, -, he⟩ | ⟨hp, ha, he⟩ := hostWriteByte_cases a b s <;> rw [he] at h
  · cases h; exact .same
  · exact startWord_regsAfter b s t hp h
  · cases h; exact .stored a b hp ha

theorem hostStep_regsAfter (s t : State) (h : hostStep s = .next t) : RegsAfter s.toRegs t.toRegs := by
  unfold hostStep at h
  split at h
  · cases h; exact .same
  · split at h
    · split at h <;> cases h <;> exact .same
    · cases h
  · split at h
    · split at h
      · cases h; exact .same
      · exact (hostWriteByte_regsAfter _ _ _ t h :)
    · cases h
  · cases h; exact .same

theorem blockStep_regsAfter (s t : State) (h : blockStep s = .next t) : RegsAfter s.toRegs t.toRegs := by
  obtain ⟨-, he⟩ | ⟨-, i, -, he⟩ | ⟨-, -, he⟩ := blockStep_cases s <;> rw [he] at h
  · cases h; exact .same
  · exact exec_regsAfter i s t h
  · cases h

/-- Everything a step can do to the registers (R8 "nothing else changes the state except reset"). -/
theorem step_regsAfter (s t : State) (h : step s = .next t) : RegsAfter s.toRegs t.toRegs := by
  obtain ⟨ts, -, he⟩ | ⟨ts, -, he⟩ | ⟨ts, -, he⟩ | ⟨-, -, he⟩ | ⟨-, -, he⟩ := step_cases s <;> rw [he] at h
  · exact hostStep_regsAfter { s with turns := ts } t h
  · exact blockStep_regsAfter { s with turns := ts } t h
  · cases h; exact .rst
  · exact hostStep_regsAfter s t h
  · exact blockStep_regsAfter s t h

end Sys2Proof.Machine
end

