-- ==== Sys2Proof/Laws/Units.lean ====
section
/-! SUPPORT. Spec lemmas of the units: output lengths, the CRC as one loop over its register, and the phases whose function
layer cannot fail. -/

namespace Sys2Proof.Machine

theorem packPairs_length : ∀ t : List Byte, (packPairs t).length = t.length / 2
  | [] => rfl
  | [_] => by simp [packPairs]
  | _ :: _ :: rest => by simp [packPairs, packPairs_length rest]; omega

theorem modhexEncode_cons (b : Byte) (bs : List Byte) :
    modhexEncode (b :: bs) = mhSym (b.extractLsb' 4 4) :: mhSym (b.extractLsb' 0 4) :: modhexEncode bs := by
  simp [modhexEncode]

/-- What `modhex_decode` can answer: only `InvalidEncoding`, or half as many bytes as characters. -/
theorem modhexDecode_cases (t : List Byte) :
    (modhexDecode t = .error .invalidEncoding ∧ (t.all inAlphabet = false ∨ t.length % 2 = 1)) ∨
    (modhexDecode t = .ok (packPairs t) ∧ t.all inAlphabet = true ∧ t.length % 2 = 0) := by
  unfold modhexDecode
  cases ha : t.all inAlphabet with
  | false => exact .inl ⟨rfl, .inl rfl⟩
  | true =>
    by_cases hl : t.length % 2 = 1
    · exact .inl ⟨by simp [hl], .inr hl⟩
    · exact .inr ⟨by simp [hl], rfl, by omega⟩

/-- The CRC loop carries nothing but its register: from any value, over a concatenation. -/
theorem crc_foldl_append (r : Half) (d e : List Byte) :
    (d ++ e).foldl crcByte r = e.foldl crcByte (d.foldl crcByte r) := List.foldl_append

@[simp] theorem invShiftRows_length (s : List Byte) : (invShiftRows s).length = 16 := by
  simp [invShiftRows, shiftSource]

@[simp] theorem invSubBytes_length (s : List Byte) : (invSubBytes s).length = s.length := by simp [invSubBytes]

@[simp] theorem addRoundKey_length (s k : List Byte) : (addRoundKey s k).length = min s.length k.length := by
  simp [addRoundKey]

theorem expandFrom_length (n : Nat) : ∀ (i : Nat) (ws : List KeyWord), (expandFrom n i ws).length = n + ws.length := by
  induction n with
  | zero => intro i ws; simp [expandFrom]
  | succ k ih => intro i ws; rw [expandFrom, ih]; simp; omega

theorem keyExpansion_length (key : List Byte) : (keyExpansion key).length = 44 := by
  simp [keyExpansion, expandFrom_length]

theorem flatMap_word_length (ws : List KeyWord) :
    (ws.flatMap fun w => [w.b0, w.b1, w.b2, w.b3]).length = 4 * ws.length := by
  induction ws with
  | nil => rfl
  | cons w rest ih => rw [List.flatMap_cons, List.length_append, ih]; simp; omega

/-- Every round key is 16 bytes (R106). -/
theorem roundKey_length (key : List Byte) (n : Nat) (h : n ≤ 10) : (roundKey (keyExpansion key) n).length = 16 := by
  rw [roundKey, flatMap_word_length, List.length_take, List.length_drop, keyExpansion_length]
  omega

/-- The inverse cipher gives one block, whatever the length of its second operand is above it (R100). -/
theorem invCipher_length (key ct : List Byte) : (invCipher key ct).length = 16 := by
  simp [invCipher, roundKey_length]

/-- `decrypt_block` of two 16-byte registers cannot fail (R162). -/
theorem decryptBlock_registers (k c : Vector Byte 16) :
    decryptBlock k.toList c.toList = .ok (invCipher k.toList c.toList) := by
  simp [decryptBlock, Config.keyLen, Config.blockLen]

/-- Phase `P_AES` always writes the inverse cipher's block into `PT` (R112, R125). -/
theorem phaseAes_eq (r : Regs) :
    phaseAes r = ({ r with pt := store r.pt (invCipher r.key.toList r.ct.toList) }, none) := by
  simp [phaseAes, decryptBlock_registers]

end Sys2Proof.Machine
end

