-- ==== Sys2Proof/Machine/Script.lean ====
section
/-! DEFINITION. The host script of 30_encoding.md R72 and the operand forms `hex("..")` and `modhex("..")` of R71. -/

namespace Sys2Proof.Machine

/-- The character codes of a text (R72): ASCII (notes/assumptions/12.md). DESIGN CHOICE: a character that has no ASCII code,
which R72 does not speak of, gets its code point modulo 256 (21.md). -/
def textCodes (t : List Char) : List Byte := t.map fun c => BitVec.ofNat 8 c.toNat

/-- The value of a hexadecimal digit, either case. -/
def hexDigit (c : Char) : Option Nat :=
  let n := c.toNat
  if 48 ≤ n ∧ n ≤ 57 then some (n - 48)
  else if 97 ≤ n ∧ n ≤ 102 then some (n - 87)
  else if 65 ≤ n ∧ n ≤ 70 then some (n - 55)
  else none

/-- `hex("..")` (R71): the pairs of hexadecimal digits in reading order. -/
def hexBytes (t : List Char) : Option (List Byte) :=
  match t with
  | [] => some []
  | [_] => none
  | hi :: lo :: rest =>
    match hexDigit hi, hexDigit lo, hexBytes rest with
    | some a, some b, some bs => some (BitVec.ofNat 8 (16 * a + b) :: bs)
    | _, _, _ => none

/-- `modhex("..")` (R71): `modhex_decode` of the text's character codes (a character without an ASCII code:
notes/assumptions/21.md). -/
def modhexText (t : List Char) : Except ErrKind (List Byte) := modhexDecode (textCodes t)

/-- The statements of R72; a `hex(..)` operand is its bytes. -/
inductive Stmt where
  | wr (addr : Nat) (b : Byte)
  | wrs (addr : Nat) (text : List Char)
  | wrh (addr : Nat) (bytes : List Byte)
  | start (i : Instr)
  | wait
  | rd (addr : Nat)
  | rdn (addr n : Nat)
  | comment (text : List Char)
  deriving DecidableEq, Repr

/-- One `WR` per byte, ascending addresses (R72). -/
def writeRun (addr : Nat) (bs : List Byte) : List HostOp :=
  match bs with
  | [] => []
  | b :: rest => .write addr 1 b.toNat :: writeRun (addr + 1) rest

/-- The accesses of one statement (R72): `WR` and `RD` are one byte each, `START` is `WR 0x00`, a comment none. -/
def expand (st : Stmt) : List HostOp :=
  match st with
  | .wr a b => [.write a 1 b.toNat]
  | .wrs a t => writeRun a (textCodes t)
  | .wrh a bs => writeRun a bs
  | .start i => [.write 0x00 1 (encode i).toNat]
  | .wait => [.wait]
  | .rd a => [.read a 1]
  | .rdn a n => (List.range n).map fun k => .read (a + k) 1
  | .comment _ => []

/-- The accesses of a script, in order. -/
def expandScript (p : List Stmt) : List HostOp := p.flatMap expand

end Sys2Proof.Machine
end

