-- ==== Sys2Proof/Tests/Slice0.lean ====
section
/-! SUPPORT. Small checks against words written out from the encodings and values taken from spec/ (95_test_vectors.md and the
rules' own examples), and one witness for the hypotheses of every statement that has some. -/

namespace Sys2Proof.Tests

open Sys2Proof Sys2Proof.Machine

/-! Helpers -/

/-- A fact about the next state, if there is one. -/
def after {α : Type} (o : Host.Outcome State Fault Refusal) (f : State → α) : Option α :=
  match o with
  | .next t => some (f t)
  | .fault _ => none
  | .refused _ => none

/-- Reset registers, the command `i` running at phase `p`. -/
def running (i : Instr) (p : Phase) : State := { State.reset with cmd := encode i, phase := p }

/-- Reset registers, a host that wants `q`, turns `ts`. -/
def idleWith (q : List HostOp) (ts : List Turn) : State := { State.reset with hostQueue := q, turns := ts }

/-- The bytes of a byte list in a register of `n` bytes, from index 0. -/
def reg (n : Nat) (bs : List Byte) : Vector Byte n := store (zeros n) bs

/-- `FIXKEY` (95_test_vectors.md). -/
def fixKey : List Byte := [0xE2, 0xA2, 0xE4, 0xC8, 0x80, 0x67, 0xA1, 0xE2, 0xEF, 0xE2, 0x38, 0xF8, 0xD2, 0xD3, 0xF7, 0x6C]
/-- The plaintext of the fixture (V3). -/
def fixPt : List Byte := [0xA0, 0x9A, 0xA8, 0xBF, 0x3D, 0xD1, 0x01, 0x00, 0xA1, 0x0D, 0x45, 0x00, 0xF8, 0xF6, 0x54, 0x98]
/-- `FIXTOK` (95_test_vectors.md), in two halves. -/
def fixTok : List Char :=
  ['v', 'v', 'r', 'g', 'i', 'n', 'n', 'u', 'b', 'k', 'j', 'j', 'g', 'j', 'r', 'b', 'k', 'r', 'i', 'f', 'k', 'i'] ++
  ['k', 'c', 'r', 'u', 'n', 'l', 'k', 'j', 'd', 'l', 'b', 'f', 'k', 'c', 'd', 'b', 'e', 'r', 'j', 'u', 'b', 'n']

/-! Decoding: the words of R60 bit by bit, and reserved words of R61. -/

theorem test_decode_otp : decode 0b00000001#8 = .ok .otp := by decide
theorem test_decode_mhdec : decode 0b00000010#8 = .ok .mhdec := by decide
theorem test_decode_mhenc : decode 0b00000011#8 = .ok .mhenc := by decide
theorem test_decode_crc16 : decode 0b00000100#8 = .ok .crc16 := by decide
theorem test_decode_aesdec : decode 0b00000101#8 = .ok .aesdec := by decide
theorem test_decode_reserved_ops : decode 0b00000000#8 = .error (.reservedOp 0) ∧
    decode 0b00000110#8 = .error (.reservedOp 6) ∧ decode 0b00000111#8 = .error (.reservedOp 7) := by decide
theorem test_decode_zero_field : decode 0b10000001#8 = .error (.zeroFieldSet 0b10000) ∧
    decode 0b00001001#8 = .error (.zeroFieldSet 0b00001) := by decide
theorem test_decodeTableWord : decodeTableWord 8 3 = some .mhenc ∧ decodeTableWord 8 6 = none := by decide

/-! Well-formedness: an ill-formed term for each check. -/

theorem test_wf_zero_field : ({ zero := 1, op := 1 } : FormatC).zeroOk = false ∧
    ({ zero := 1, op := 1 } : FormatC).wellFormed = false := by decide
theorem test_wf_op : ({ zero := 0, op := 0 } : FormatC).opOk = false ∧ ({ zero := 0, op := 6 } : FormatC).opOk = false ∧
    ({ zero := 0, op := 7 } : FormatC).wellFormed = false := by decide
theorem test_wf_legal : ({ zero := 0, op := 5 } : FormatC).wellFormed = true := by decide

/-! The parameters of R5 against the widths State declares, and each other. -/

theorem test_config_sizes : Config.tokenMax = State.reset.tok.toList.length ∧ Config.bufMax = State.reset.buf.toList.length ∧
    Config.idLen = State.reset.pid.toList.length ∧ Config.keyLen = State.reset.key.toList.length ∧
    Config.tokenBytes = Config.idLen + Config.blockLen ∧ Config.tokenChars = 2 * Config.tokenBytes := by decide

/-! The commands, one step each, against the rules' examples. -/

/-- R84's example: `TOK = "vvrginnubkjj"`. -/
theorem test_mhdec_example :
    after (exec .mhdec { running .mhdec .pMhdec with
        tok := reg 48 (textCodes ['v', 'v', 'r', 'g', 'i', 'n', 'n', 'u', 'b', 'k', 'j', 'j']), toklen := 12 })
      (fun t => (t.buf.toList.take 7, t.buflen, t.ok)) = some ([0xFF, 0xC5, 0x7B, 0xBE, 0x19, 0x88, 0x00], 6, true) := by
  decide +kernel

/-- V10: an upper-case text is outside the alphabet; V31: `STATUS` bits of the failure. -/
theorem test_mhdec_upper_case :
    after (exec .mhdec { running .mhdec .pMhdec with tok := reg 48 (textCodes ['C', 'B']), toklen := 2 })
      (fun t => (t.buflen, status t.toRegs)) = some (0, 0x12) := by decide +kernel

/-- R85's example: `00 FF 10` gives "ccvvbc". -/
theorem test_mhenc_example :
    after (exec .mhenc { running .mhenc .pMhenc with buf := reg 24 [0x00, 0xFF, 0x10], buflen := 3 })
      (fun t => (t.tok.toList.take 7, t.toklen, t.done)) = some ([0x63, 0x63, 0x76, 0x76, 0x62, 0x63, 0x00], 6, true) := by
  decide +kernel

/-- R95's example: the bytes of "123456789". -/
theorem test_crc16_example :
    after (exec .crc16 { running .crc16 .pCrcbuf with
        buf := reg 24 [0x31, 0x32, 0x33, 0x34, 0x35, 0x36, 0x37, 0x38, 0x39], buflen := 9 })
      (fun t => (t.crc, status t.toRegs)) = some (0x6F91, 0x06) := by decide +kernel

/-- V16: the order of the bytes matters. -/
theorem test_crc16_order : crc16 [0x00, 0x01] = 0xE131 ∧ crc16 [0x01, 0x00] = 0xE960 := by decide +kernel

/-- R112's example (the §8 fixture). -/
theorem test_aesdec_example :
    after (exec .aesdec { running .aesdec .pAes with
        key := reg 16 fixKey,
        ct := reg 16 [0x58, 0xC1, 0x9C, 0x74, 0x97, 0x90, 0xCE, 0xBA, 0x98, 0x2A, 0x14, 0x90, 0x21, 0x3C, 0x8E, 0x1B] })
      (fun t => (t.pt.toList, t.done)) = some (fixPt, true) := by decide +kernel

/-- R106's example: `rk[1]` and `rk[10]` of the key `00 01 .. 0F`. -/
theorem test_key_schedule :
    let ws := keyExpansion [0x00, 0x01, 0x02, 0x03, 0x04, 0x05, 0x06, 0x07, 0x08, 0x09, 0x0A, 0x0B, 0x0C, 0x0D, 0x0E, 0x0F]
    roundKey ws 1 = [0xD6, 0xAA, 0x74, 0xFD, 0xD2, 0xAF, 0x72, 0xFA, 0xDA, 0xA6, 0x78, 0xF1, 0xD6, 0xAB, 0x76, 0xFE] ∧
    roundKey ws 10 = [0x13, 0x11, 0x1D, 0x7F, 0xE3, 0x94, 0x4A, 0x17, 0xF3, 0x07, 0xA7, 0x8B, 0x4D, 0x2B, 0x30, 0xC5] := by
  decide +kernel

/-- R103's and R110's examples. -/
theorem test_field : gmul 0x57 0x13 = 0xFE ∧ gmul 0x57 0x83 = 0xC1 ∧
    invMixColumn 0x8E 0x4D 0xA1 0xBC = [0xDB, 0x13, 0x53, 0x45] := by decide +kernel

/-- V3: the whole function on the fixture. -/
theorem test_otp_fixture :
    decodeToken (textCodes fixTok) [0xFF, 0xC5, 0x7B, 0xBE, 0x19, 0x88] [0xA0, 0x9A, 0xA8, 0xBF, 0x3D, 0xD1] fixKey =
      .ok { useCounter := 0x0001, sessionCounter := 0x00, timestamp := 0x00450DA1 } := by decide +kernel

/-- V3 steps 7 and 8: the CRC phase and the parse phase on the fixture's plaintext; `RES` rises before `DONE` (V40). -/
theorem test_otp_crc_and_parse :
    after (exec .otp { running .otp .pCrc with pt := reg 16 fixPt }) (fun t => (t.crc, t.phase, status t.toRegs)) =
      some (0xF0B8, .pParse, 0x09) ∧
    after (exec .otp { running .otp .pParse with pt := reg 16 fixPt }) (fun t => (t.uc, t.sc, t.ts)) =
      some (0x0001, 0x00, 0x00450DA1) := by decide +kernel

/-! The host's side. -/

/-- V40: the reserved word 0x00 after reset gives `STATUS = 0x82`. -/
theorem test_reserved_word :
    after (step (idleWith [.write 0 1 0] [])) (fun t => (status t.toRegs, t.cmd)) = some (0x82, 0x00) := by decide +kernel

/-- V40: `TOKLEN` takes 48 and ignores 49. -/
theorem test_toklen_limit :
    after (step (idleWith [.write 3 1 48] [])) (fun t => t.toklen) = some 48 ∧
    after (step (idleWith [.write 3 1 49] [])) (fun t => t.toklen) = some 0 := by decide +kernel

/-- R43, R67: `UC` reads low byte first. -/
theorem test_uc_little_endian : memRead { Regs.reset with uc := 0x1234 } 0x1A 2 = some 0x1234 ∧
    readByte { Regs.reset with uc := 0x1234 } 0x1A = 0x34 ∧ memRead Regs.reset 0xFF 2 = none := by decide +kernel

/-- U6: an address wider than 8 bits is refused, also with no byte to access. -/
theorem test_wide_address : step (idleWith [.read 256 0] [.host]) = .refused (.accessPastEnd 256 0) ∧
    memRead Regs.reset 256 0 = none := ⟨rfl, by decide⟩

/-- R71's example and R72: `hex("a09a")`, and a script's accesses. -/
theorem test_script : hexBytes ['a', '0', '9', 'a'] = some [0xA0, 0x9A] ∧
    expandScript [.wrs 0x80 ['c', 'b'], .wr 0x03 2, .start .mhdec, .wait, .rdn 0x60 2] =
      [.write 0x80 1 0x63, .write 0x81 1 0x62, .write 0x03 1 2, .write 0x00 1 0x02, .wait, .read 0x60 1, .read 0x61 1] := by
  decide +kernel

/-- The space of reset registers lists no cell. -/
theorem test_memory_of_reset : memoryOf Regs.reset = [] := by decide +kernel

/-- The first instruction after reset is the one placed. -/
theorem test_fetch_word : after (step (State.reset.withFetchWord 8 1)) (fun t => (t.cmd, t.phase)) = some (0x01, .pMhdec) ∧
    after (step (State.reset.withFetchWord 8 5)) (fun t => (t.cmd, t.phase)) = some (0x05, .pAes) := by decide +kernel

/-! Witnesses for the hypotheses of the statements, named after them. -/

theorem test_hyp_AlphabetIsTheSixteenSymbols : mhVal 0x63 = some 0 ∧ mhVal 0x76 = some 15 := by decide
theorem test_hyp_ModhexDecodeOfAnyText :
    (∃ ch ∈ ([0x63, 0x61] : List Byte), inAlphabet ch = false) ∧ ([0x63] : List Byte).length % 2 = 1 ∧
    ((∀ ch ∈ ([] : List Byte), inAlphabet ch = true) ∧ ([] : List Byte).length % 2 = 0) ∧
    ((∀ ch ∈ ([0x63, 0x76] : List Byte), inAlphabet ch = true) ∧ ([0x63, 0x76] : List Byte).length % 2 = 0) := by decide
theorem test_hyp_ModhexEncodeOfAnyBytes : 0 < ([0x10] : List Byte).length := by decide
theorem test_hyp_ModhexRoundTrip : modhexDecode [0x62, 0x63] = .ok [0x10] := by decide
theorem test_hyp_CrcOfConcatenationFollowsFirstPart : crc16 [] = crc16 [0xDE, 0x0C] := by decide +kernel
theorem test_hyp_FieldArithmeticLaws : (0x53 : Byte) ≠ 0 ∧ gmul 0x53 0xCA = 0x01 := by decide +kernel
theorem test_hyp_KeyExpansionRecurrence : fixKey.length = 16 ∧ (4 ≤ 4 ∧ 4 < 44) ∧ (4 ≤ 43 ∧ 43 < 44) ∧ (10 ≤ 10 ∧ 3 < 4) := by
  decide
theorem test_hyp_RoundOperationsByStateByte : fixKey.length = 16 ∧ fixPt.length = 16 ∧ 0 < 4 ∧ 3 < 4 := by decide
theorem test_hyp_InverseCipherIsInjective :
    fixKey.length = 16 ∧ fixPt.length = 16 ∧ invCipher fixKey fixPt = invCipher fixKey fixPt := ⟨rfl, rfl, rfl⟩
theorem test_hyp_DecryptBlockContract : (fixKey.take 15).length ≠ 16 ∧ (fixKey.length = 16 ∧ (fixPt ++ [0]).length ≠ 16) ∧
    (fixKey.length = 16 ∧ fixPt.length = 16) := by decide
theorem test_hyp_DecodeTokenFirstFailingStep : fixKey.length = 16 := by decide
theorem test_hyp_UnknownDeviceIgnoresKey : modhexDecode [0x76, 0x76] = .ok [0xFF] ∧ ([0xFF] : List Byte).take 6 = [0xFF] := by
  decide
theorem test_hyp_PrefixCharacterFlipIsUnknownDevice :
    let token : List Byte := List.replicate 44 0x63
    token.length = 44 ∧ (∀ c ∈ token, inAlphabet c = true) ∧ packPairs (token.take 12) = [0, 0, 0, 0, 0, 0] ∧ 0 < 12 ∧
    11 < 12 ∧ inAlphabet 0x62 = true ∧ (0x62 : Byte) ≠ token.getD 0 0 ∧ (0x62 : Byte) ≠ token.getD 11 0 := by decide +kernel
theorem test_hyp_ParseIgnoresRandomFieldAndTrailer : fixPt.take 12 = (fixPt.set 12 0x00).take 12 ∧ fixPt ≠ fixPt.set 12 0x00 := by
  decide
theorem test_hyp_StepRunsDecodedInstruction :
    ((idleWith [.write 0 1 5] [.host]).phase = .idle ∧ (idleWith [.write 0 1 5] [.host]).turns = .host :: [] ∧
      (idleWith [.write 0 1 5] [.host]).hostQueue = .write 0 1 (0x05 : Byte).toNat :: [] ∧ decode 0x05 = .ok .aesdec) ∧
    ((idleWith [.write 0 1 1] []).phase = .idle ∧ (idleWith [.write 0 1 1] []).turns = [] ∧
      (idleWith [.write 0 1 1] []).hostQueue = .write 0 1 (0x01 : Byte).toNat :: [] ∧ decode 0x01 = .ok .otp) ∧
    (({ running .otp .pLen with turns := [.block] } : State).phase ≠ .idle ∧
      ({ running .otp .pLen with turns := [.block] } : State).turns = .block :: [] ∧
      decode ({ running .otp .pLen with turns := [.block] } : State).cmd = .ok .otp) ∧
    ((running .mhenc .pMhenc).phase ≠ .idle ∧ (running .mhenc .pMhenc).turns = [] ∧
      decode (running .mhenc .pMhenc).cmd = .ok .mhenc) := by decide
theorem test_hyp_StartClearsOutputsAndEntersFirstPhase : State.reset.phase = .idle ∧
    ((0x00 : Byte).toNat = 0 ∨ 6 ≤ (0x00 : Byte).toNat) ∧ ((0x06 : Byte).toNat = 0 ∨ 6 ≤ (0x06 : Byte).toNat) ∧
    ((0xFF : Byte).toNat = 0 ∨ 6 ≤ (0xFF : Byte).toNat) := by decide
theorem test_hyp_ReservedWordEndsAtOnce :
    (idleWith [.write 0 1 6] [.host]).phase = .idle ∧ (idleWith [.write 0 1 6] [.host]).turns = .host :: [] ∧
    (idleWith [.write 0 1 6] [.host]).hostQueue = .write 0 1 (0x06 : Byte).toNat :: [] ∧
    ((0x06 : Byte).toNat = 0 ∨ 6 ≤ (0x06 : Byte).toNat) := by decide
theorem test_hyp_ExecOutsideTheTransitionTable :
    ((running .otp .pLen).phase ≠ .idle ∧ (running .otp .pLen).cmd ≠ encode .mhdec) ∧
    ((running .mhdec .pLen).phase ≠ .idle ∧ (running .mhdec .pLen).cmd = encode .mhdec ∧
      runsAt (running .mhdec .pLen).cmd (running .mhdec .pLen).phase = false) := by decide
theorem test_hyp_MhdecDecodesTokenBuffer :
    let bad : State := { State.reset with toklen := 48 }
    let odd : State := { State.reset with toklen := 47, tok := Vector.replicate 48 0x63 }
    let good : State := { State.reset with toklen := 48, tok := Vector.replicate 48 0x63 }
    (bad.phase = .idle ∧ bad.toklen.toNat ≤ 48 ∧ 47 < bad.toklen.toNat ∧ inAlphabet (cell bad.tok 47) = false) ∧
    (odd.phase = .idle ∧ odd.toklen.toNat ≤ 48 ∧ odd.toklen.toNat % 2 = 1) ∧
    (good.phase = .idle ∧ good.toklen.toNat ≤ 48 ∧ (∀ i, i < good.toklen.toNat → inAlphabet (cell good.tok i) = true) ∧
      good.toklen.toNat % 2 = 0) := by decide +kernel
theorem test_hyp_MhencEncodesByteBuffer :
    let s : State := { State.reset with buflen := 24 }
    s.phase = .idle ∧ s.buflen.toNat ≤ 24 ∧ 23 < s.buflen.toNat := by decide
theorem test_hyp_Crc16ComputesCrcOfBuffer : State.reset.phase = .idle ∧ State.reset.buflen = 0 ∧
    ({ State.reset with buflen := 24 } : State).buflen.toNat ≤ 24 := by decide
theorem test_hyp_AesdecDecryptsOneBlock : State.reset.phase = .idle := by decide
theorem test_hyp_OtpMhdecPhase :
    ((running .otp .pMhdec).phase = .pMhdec ∧ (running .otp .pMhdec).cmd = 0x01 ∧
      (running .otp .pMhdec).toklen.toNat ≤ 48 ∧
      modhexDecode (tokenText (running .otp .pMhdec).toRegs) = .ok []) ∧
    modhexDecode (tokenText ({ running .otp .pMhdec with toklen := 1 } : State).toRegs) = .error .invalidEncoding := by decide
theorem test_hyp_OtpLenPhase :
    ((running .otp .pLen).phase = .pLen ∧ (running .otp .pLen).cmd = 0x01 ∧ (running .otp .pLen).buflen.toNat ≠ 22 ∧
      PipelineInv (running .otp .pLen).toRegs) ∧
    ({ running .otp .pLen with buflen := 22 } : State).buflen.toNat = 22 :=
  ⟨⟨rfl, rfl, by decide, by constructor <;> decide⟩, by decide⟩
theorem test_hyp_OtpSplitPhase : (running .otp .pSplit).phase = .pSplit ∧ (running .otp .pSplit).cmd = 0x01 ∧ 15 < 16 := by decide
theorem test_hyp_OtpPrefixPhase :
    let bad : State := { running .otp .pPrefix with buflen := 22, pid := Vector.replicate 6 1 }
    ((bad.phase = .pPrefix ∧ bad.cmd = 0x01 ∧ ∃ i, i < 6 ∧ cell bad.buf i ≠ cell bad.pid i) ∧ PipelineInv bad.toRegs) ∧
    ∀ i, i < 6 → cell (running .otp .pPrefix).buf i = cell (running .otp .pPrefix).pid i :=
  ⟨⟨⟨rfl, rfl, 5, by decide⟩, by constructor <;> decide⟩, by decide⟩
theorem test_hyp_OtpAesPhase : (running .otp .pAes).phase = .pAes ∧ (running .otp .pAes).cmd = 0x01 := by decide
/-- V38: the zero block under the zero key. -/
def zeroPt : List Byte := [0x14, 0x0F, 0x0F, 0x10, 0x11, 0xB5, 0x22, 0x3D, 0x79, 0x58, 0x77, 0x17, 0xFF, 0xD9, 0xEC, 0x3A]
theorem test_hyp_OtpUidPhase :
    let bad : State := { running .otp .pUid with buflen := 22, pt := reg 16 zeroPt }
    ((bad.phase = .pUid ∧ bad.cmd = 0x01 ∧ ∃ i, i < 6 ∧ cell bad.pt i ≠ cell bad.uid i) ∧ PipelineInv bad.toRegs) ∧
    ∀ i, i < 6 → cell (running .otp .pUid).pt i = cell (running .otp .pUid).uid i :=
  ⟨⟨⟨rfl, rfl, 5, by decide⟩, by constructor <;> decide +kernel⟩, by decide⟩
theorem test_hyp_OtpCrcPhase :
    let good : State := { running .otp .pCrc with pt := reg 16 fixPt }
    ((running .otp .pCrc).phase = .pCrc ∧ (running .otp .pCrc).cmd = 0x01 ∧ crc16 (running .otp .pCrc).pt.toList ≠ 0xF0B8) ∧
    (good.phase = .pCrc ∧ good.cmd = 0x01 ∧ crc16 good.pt.toList = 0xF0B8) := by decide +kernel
theorem test_hyp_OtpParsePhase : (running .otp .pParse).phase = .pParse ∧ (running .otp .pParse).cmd = 0x01 := by decide
theorem test_hyp_OtpRefinesDecodeToken :
    let s : State := { idleWith [.write 0 1 1] [] with toklen := 48 }
    s.phase = .idle ∧ s.turns = [] ∧ s.hostQueue = .write 0 1 1 :: [] ∧ s.toklen.toNat ≤ 48 := by decide
theorem test_hyp_OtpEndStateTable :
    let s : State := { idleWith [.write 0 1 1] [] with toklen := 44 }
    s.phase = .idle ∧ s.turns = [] ∧ s.hostQueue = .write 0 1 1 :: [] ∧ s.toklen.toNat ≤ 48 := by decide
theorem test_hyp_OtpOutcomeDependsOnOperandsAlone :
    let s : State := idleWith [.write 0 1 1] []
    let s' : State := { idleWith [.write 0 1 1, .wait] [] with crc := 0xF0B8, done := true }
    s.phase = .idle ∧ s'.phase = .idle ∧ s.turns = [] ∧ s'.turns = [] ∧ s.hostQueue = .write 0 1 1 :: [] ∧
    s'.hostQueue = .write 0 1 1 :: [.wait] ∧ s.tok = s'.tok ∧ s.toklen = s'.toklen ∧ s.pid = s'.pid ∧ s.uid = s'.uid ∧
    s.key = s'.key := by decide
theorem test_hyp_CommandFrames : (∃ t, exec .crc16 State.reset = .next t) ∧ (∃ t, exec .otp (running .otp .pLen) = .next t) ∧
    (∀ g k, locate 0x30 = some (g, k) → g.reg ≠ .cmd ∧ g.reg ≠ .status ∧ g.reg ≠ .phase ∧ commandWrites .otp g.reg = false) :=
  ⟨⟨_, rfl⟩, ⟨_, rfl⟩, fun g k h => by cases h; decide⟩
theorem test_hyp_RegisterMapReads : 5 < 6 ∧ 15 < 16 ∧ 23 < 24 ∧ 47 < 48 := by decide
theorem test_hyp_ReservedAddressesAndBits : (0x05 ≤ (0x07 : Byte).toNat ∧ (0x07 : Byte).toNat ≤ 0x07) ∧
    0x0E ≤ (0x0F : Byte).toNat ∧ (0x17 : Byte).toNat ≤ 0x17 ∧ 0x1D ≤ (0x1D : Byte).toNat ∧ (0x2F : Byte).toNat ≤ 0x2F ∧
    0x78 ≤ (0x78 : Byte).toNat ∧ 0xB0 ≤ (0xB0 : Byte).toNat ∧ 0xB0 ≤ (0xFF : Byte).toNat ∧ 48 < (49 : Byte).toNat ∧
    24 < (25 : Byte).toNat := by decide
theorem test_hyp_StatusIsAViewOfTheFlags : (idleWith [.read 1 1] [.host]).turns = .host :: [] ∧
    (idleWith [.read 1 1] [.host]).hostQueue = .read 1 1 :: [] := by decide
theorem test_hyp_HostWriteStoresOneByte :
    (idleWith [.write 0xAF 1 7] [.host]).phase = .idle ∧ (idleWith [.write 0xAF 1 7] [.host]).turns = .host :: [] ∧
    (idleWith [.write 0xAF 1 7] [.host]).hostQueue = .write (0xAF : Byte).toNat 1 (7 : Byte).toNat :: [] ∧ (0xAF : Byte) ≠ 0 := by
  decide
theorem test_hyp_HostWriteWhileBusyIsIgnored :
    let s : State := { running .otp .pLen with hostQueue := [.write 0 1 5], turns := [.host] }
    s.phase ≠ .idle ∧ s.turns = .host :: [] ∧ s.hostQueue = .write (0x00 : Byte).toNat 1 (5 : Byte).toNat :: [] := by decide
theorem test_hyp_HostReadHasNoSideEffect :
    let s : State := { running .otp .pLen with hostQueue := [.read 255 1], turns := [.host] }
    s.turns = .host :: [] ∧ s.hostQueue = .read (0xFF : Byte).toNat 1 :: [] := by decide
theorem test_hyp_HostCannotDisturbBusyBlock :
    let s : State := { running .otp .pLen with hostQueue := [.write 0xFE 2 9], turns := [.host] }
    s.phase ≠ .idle ∧ s.turns = .host :: [] ∧ AccessesInRange s :=
  ⟨by decide, rfl, fun o h => by cases List.mem_singleton.mp h; simp [HostOp.inRange, accessOk, Config.regSpace]⟩
theorem test_hyp_AccessPastEndIsRefused :
    ((idleWith [.read 255 2] [.host]).turns = .host :: [] ∧ (idleWith [.read 255 2] [.host]).hostQueue = .read 255 2 :: [] ∧
      256 < 255 + 2) ∧
    ((idleWith [.read 256 0] [.host]).hostQueue = .read 256 0 :: [] ∧ 255 < 256) ∧
    ((idleWith [.write 255 1 0] [.host]).hostQueue = .write 255 1 0 :: [] ∧ 255 + 1 ≤ 256) ∧
    ((idleWith [.write 255 0 9] [.host]).hostQueue = .write 255 0 9 :: [] ∧ 255 ≤ 255) := by decide
theorem test_hyp_MultiByteReadIsLittleEndian :
    (idleWith [.read 0xFC 4] []).phase = .idle ∧ (idleWith [.read 0xFC 4] []).turns = [] ∧
    (idleWith [.read 0xFC 4] []).hostQueue = .read 0xFC 4 :: [] ∧ 1 ≤ 4 ∧ 0xFC + 4 ≤ 256 := by decide
theorem test_hyp_MultiByteWriteIsAscending :
    ((idleWith [.write 1 255 9] []).phase = .idle ∧ (idleWith [.write 1 255 9] []).turns = [] ∧
      (idleWith [.write 1 255 9] []).hostQueue = .write 1 255 9 :: [] ∧ 1 ≤ 255 ∧ 1 ≤ 1 ∧ 1 + 255 ≤ 256) ∧
    ((idleWith [.write 0 256 0x0100] []).phase = .idle ∧ (idleWith [.write 0 256 0x0100] []).turns = [] ∧
      (idleWith [.write 0 256 0x0100] []).hostQueue = .write 0 256 0x0100 :: [] ∧ 0x0100 % 256 = 0) ∧
    (6 ≤ 0x0106 % 256) ∧
    ((idleWith [.write 0 2 0x3005] [.host, .host]).phase = .idle ∧
      (idleWith [.write 0 2 0x3005] [.host, .host]).turns = List.replicate 2 .host ++ [] ∧
      (idleWith [.write 0 2 0x3005] [.host, .host]).hostQueue = .write 0 2 0x3005 :: [] ∧
      BitVec.ofNat 8 0x3005 = encode .aesdec) := by decide
theorem test_hyp_WaitEndsWhenDone :
    let s : State := { idleWith [.wait] [.host] with done := true }
    (s.turns = .host :: [] ∧ s.hostQueue = .wait :: [] ∧ s.done = true) ∧
    ((idleWith [.wait] [.host]).turns = .host :: [] ∧ (idleWith [.wait] [.host]).hostQueue = .wait :: [] ∧
      (idleWith [.wait] [.host]).done = false) := by decide
theorem test_hyp_ResetAbandonsRunningCommand :
    ({ running .otp .pAes with turns := [.rst] } : State).turns = .rst :: [] ∧
    ((idleWith [] [.block]).phase = .idle ∧ (idleWith [] [.block]).turns = .block :: []) := by decide
/-- Both invariants of a running `OTP` at its second phase. -/
theorem test_running_invariants : ControlInv (running .otp .pLen).toRegs ∧ PipelineInv (running .otp .pLen).toRegs :=
  ⟨by constructor <;> decide, by constructor <;> decide⟩
theorem test_hyp_EveryStepKeepsControlInv :
    ControlInv (running .otp .pLen).toRegs ∧ ∃ t, step (running .otp .pLen) = .next t := ⟨test_running_invariants.1, _, rfl⟩
theorem test_hyp_EveryStepKeepsPipelineInv :
    ControlInv (running .otp .pLen).toRegs ∧ PipelineInv (running .otp .pLen).toRegs ∧
    ∃ t, step (running .otp .pLen) = .next t := ⟨test_running_invariants.1, test_running_invariants.2, _, rfl⟩
theorem test_hyp_SafeStatesNeverStop :
    ControlInv (idleWith [.read 0xFF 1] []).toRegs ∧ AccessesInRange (idleWith [.read 0xFF 1] []) :=
  ⟨by constructor <;> decide, fun o h => by cases List.mem_singleton.mp h; simp [HostOp.inRange, accessOk, Config.regSpace]⟩
theorem test_hyp_EveryCommandEnds :
    let s : State := { running .otp .pMhdec with turns := [.block] }
    (ControlInv s.toRegs ∧ s.phase ≠ .idle ∧ s.turns = .block :: []) ∧
    (ControlInv (running .otp .pLen).toRegs ∧ (running .otp .pLen).phase ≠ .idle ∧ (running .otp .pLen).turns = []) :=
  ⟨⟨by constructor <;> decide, by decide, rfl⟩, test_running_invariants.1, by decide, rfl⟩
theorem test_hyp_FreshnessEndsAtFirstStart :
    (ControlInv (running .otp .pLen).toRegs ∧ (∀ ts, (running .otp .pLen).turns ≠ .rst :: ts) ∧
      (∃ t, step (running .otp .pLen) = .next t) ∧
      ¬ ((running .otp .pLen).phase = .idle ∧ (running .otp .pLen).done = false)) ∧
    (ControlInv (idleWith [.write 0 1 6] []).toRegs ∧ (∀ ts, (idleWith [.write 0 1 6] []).turns ≠ .rst :: ts) ∧
      (∃ t, step (idleWith [.write 0 1 6] []) = .next t) ∧
      ((idleWith [.write 0 1 6] []).phase = .idle ∧ (idleWith [.write 0 1 6] []).done = false)) :=
  ⟨⟨test_running_invariants.1, fun ts h => (by cases h), ⟨_, rfl⟩, by decide⟩,
    ⟨by constructor <;> decide, fun ts h => (by cases h), ⟨_, rfl⟩, by decide⟩⟩

end Sys2Proof.Tests
end

/-! The state record: what every step keeps of it (R25), what a command leaves unchanged of it (R19), the view `STATUS`
(R21) and the values after reset (R29). -/

namespace Sys2Proof.Machine

/-! ## The rows of the transition table -/

/-- The transition table of R143, one constructor a row: the command, its phase, the phase's body, and what follows when
the body raises no error. -/
inductive TableRow : Instr → Phase → (Regs → Regs × Option ErrKind) → Next → Prop where
  | otpMhdec : TableRow .otp .pMhdec phaseMhdec (.goto .pLen)
  | otpLen : TableRow .otp .pLen phaseLen (.goto .pSplit)
  | otpSplit : TableRow .otp .pSplit phaseSplit (.goto .pPrefix)
  | otpPrefix : TableRow .otp .pPrefix phasePrefix (.goto .pAes)
  | otpAes : TableRow .otp .pAes phaseAes (.goto .pUid)
  | otpUid : TableRow .otp .pUid phaseUid (.goto .pCrc)
  | otpCrc : TableRow .otp .pCrc phaseCrc (.goto .pParse)
  | otpParse : TableRow .otp .pParse phaseParse .finish
  | mhdec : TableRow .mhdec .pMhdec phaseMhdec .finish
  | mhenc : TableRow .mhenc .pMhenc phaseMhenc .finish
  | crc16 : TableRow .crc16 .pCrcbuf phaseCrcbuf .finish
  | aesdec : TableRow .aesdec .pAes phaseAes .finish

/-- What a command's chain holds at a phase is the end of that row's body, so the rows are the whole table. -/
theorem chainOf_eq_some (i : Instr) (p : Phase) (f : Regs → Regs) (h : chainOf i p = some f) :
    ∃ body n, TableRow i p body n ∧ f = fun r => endPhase n (body r) := by
  cases i
  case otp =>
    cases p <;> cases h
    · exact ⟨_, _, .otpMhdec, rfl⟩
    · exact ⟨_, _, .otpLen, rfl⟩
    · exact ⟨_, _, .otpSplit, rfl⟩
    · exact ⟨_, _, .otpPrefix, rfl⟩
    · exact ⟨_, _, .otpAes, rfl⟩
    · exact ⟨_, _, .otpUid, rfl⟩
    · exact ⟨_, _, .otpCrc, rfl⟩
    · exact ⟨_, _, .otpParse, rfl⟩
  case mhdec => cases p <;> cases h; exact ⟨_, _, .mhdec, rfl⟩
  case mhenc => cases p <;> cases h; exact ⟨_, _, .mhenc, rfl⟩
  case crc16 => cases p <;> cases h; exact ⟨_, _, .crc16, rfl⟩
  case aesdec => cases p <;> cases h; exact ⟨_, _, .aesdec, rfl⟩

/-- A row leads to a phase its command can be running at (R143). -/
theorem TableRow.runsAt_goto {i : Instr} {p p' : Phase} {body : Regs → Regs × Option ErrKind}
    (h : TableRow i p body (.goto p')) : runsAt (encode i) p' = true := by
  cases h <;> decide

/-- START enters a phase its command can be running at (R142). -/
theorem runsAt_firstPhase (i : Instr) : runsAt (encode i) (firstPhase i) = true := by
  cases i <;> decide

theorem phase_ne_idle_of_runsAt {w : Byte} {p : Phase} (h : runsAt w p = true) : p ≠ .idle := by
  rintro rfl; cases h

/-! ## The bodies of the phases -/

theorem tokenText_length_le (r : Regs) : (tokenText r).length ≤ 48 := by
  simp only [tokenText, slice_length]; omega

theorem bufBytes_length_le (r : Regs) : (bufBytes r).length ≤ 24 := by
  simp only [bufBytes, slice_length]; omega

theorem modhexEncode_length (bs : List Byte) : (modhexEncode bs).length = 2 * bs.length := by
  induction bs with
  | nil => rfl
  | cons b bs ih => rw [modhexEncode_cons, List.length_cons, List.length_cons, ih, List.length_cons]; omega

/-- Phase `P_MHDEC` fails as `InvalidEncoding` with no write, or fills `BUF` and `BUFLEN` (R84). -/
theorem phaseMhdec_cases (r : Regs) :
    phaseMhdec r = (r, some .invalidEncoding) ∨
    ∃ bs : List Byte, bs.length ≤ 24 ∧
      phaseMhdec r = ({ r with buf := store r.buf bs, buflen := BitVec.ofNat 5 bs.length }, none) := by
  obtain ⟨he, -⟩ | ⟨he, -, -⟩ := modhexDecode_cases (tokenText r)
  · exact .inl (by simp [phaseMhdec, he])
  · have hlen := tokenText_length_le r
    exact .inr ⟨packPairs (tokenText r), by rw [packPairs_length]; omega, by simp [phaseMhdec, he]⟩

/-- The fields of a payload put three bytes into `TS`, so bits 31:24 are 0 (R67, R128). -/
theorem timestampOf_lt (p8 p9 p10 : Byte) : (timestampOf p8 p9 p10).toNat < 2 ^ 24 := by
  have h10 : p10.toNat < 2 ^ 8 := p10.isLt
  have h16 : (le16 p8 p9).toNat < 2 ^ 16 := (le16 p8 p9).isLt
  simp only [timestampOf, BitVec.toNat_or, BitVec.toNat_shiftLeft, BitVec.toNat_setWidth]
  refine Nat.or_lt_two_pow ?_ ?_
  · rw [Nat.shiftLeft_eq]; omega
  · omega

/-! ## R25: every step keeps `ControlInv` -/

/-- R25 item 5: the registers whose values stay below what their width allows. -/
structure InBounds (r : Regs) : Prop where
  toklen_le : r.toklen.toNat ≤ 48
  buflen_le : r.buflen.toNat ≤ 24
  ts_high : r.ts.toNat < 2 ^ 24

theorem ControlInv.inBounds {r : Regs} (h : ControlInv r) : InBounds r :=
  ⟨h.toklen_le, h.buflen_le, h.ts_high⟩

theorem InBounds.of_eq {r q : Regs} (h : InBounds r) (htoklen : q.toklen = r.toklen) (hbuflen : q.buflen = r.buflen)
    (hts : q.ts = r.ts) : InBounds q :=
  ⟨htoklen ▸ h.toklen_le, hbuflen ▸ h.buflen_le, hts ▸ h.ts_high⟩

/-- A length that fits `n` still fits after it is cut to a register's width. -/
theorem toNat_ofNat_le {w k n : Nat} (h : k ≤ n) : (BitVec.ofNat w k).toNat ≤ n :=
  le_trans (by simpa using Nat.mod_le k (2 ^ w)) h

theorem TableRow.inBounds {i : Instr} {p : Phase} {body : Regs → Regs × Option ErrKind} {n : Next}
    (row : TableRow i p body n) {r : Regs} (h : InBounds r) : InBounds (body r).1 := by
  have mhdecBounds : InBounds (phaseMhdec r).1 := by
    obtain he | ⟨bs, hbs, he⟩ := phaseMhdec_cases r <;> rw [he]
    · exact h
    · exact ⟨h.toklen_le, toNat_ofNat_le hbs, h.ts_high⟩
  have aesBounds : InBounds (phaseAes r).1 := by rw [phaseAes_eq]; exact h.of_eq rfl rfl rfl
  cases row
  case otpMhdec | mhdec => exact mhdecBounds
  case otpAes | aesdec => exact aesBounds
  case mhenc =>
    have hlen := bufBytes_length_le r
    exact ⟨toNat_ofNat_le (by rw [modhexEncode_length]; omega), h.buflen_le, h.ts_high⟩
  case otpParse => exact ⟨h.toklen_le, h.buflen_le, timestampOf_lt _ _ _⟩
  case otpLen | otpSplit | otpPrefix | otpUid | otpCrc | crc16 => exact h.of_eq rfl rfl rfl

/-- The registers no phase's body writes and no host write reaches: `CMD`, `PHASE` and the flags (R20, R22, R23). -/
structure SameFlags (r q : Regs) : Prop where
  cmd : q.cmd = r.cmd
  phase : q.phase = r.phase
  done : q.done = r.done
  ok : q.ok = r.ok
  err : q.err = r.err

theorem TableRow.sameFlags {i : Instr} {p : Phase} {body : Regs → Regs × Option ErrKind} {n : Next}
    (row : TableRow i p body n) (r : Regs) : SameFlags r (body r).1 := by
  have mhdecFlags : SameFlags r (phaseMhdec r).1 := by
    obtain he | ⟨bs, -, he⟩ := phaseMhdec_cases r <;> rw [he] <;> exact ⟨rfl, rfl, rfl, rfl, rfl⟩
  have aesFlags : SameFlags r (phaseAes r).1 := by rw [phaseAes_eq]; exact ⟨rfl, rfl, rfl, rfl, rfl⟩
  cases row
  case otpMhdec | mhdec => exact mhdecFlags
  case otpAes | aesdec => exact aesFlags
  case otpLen | otpSplit | otpPrefix | otpUid | otpCrc | otpParse | mhenc | crc16 => exact ⟨rfl, rfl, rfl, rfl, rfl⟩

/-- No phase raises an error kind of the function layer (R162). -/
theorem TableRow.err_reachable {i : Instr} {p : Phase} {body : Regs → Regs × Option ErrKind} {n : Next}
    (row : TableRow i p body n) (r : Regs) :
    (body r).2 ≠ some .invalidKeyLength ∧ (body r).2 ≠ some .invalidBlockLength := by
  have mhdecErr : (phaseMhdec r).2 ≠ some .invalidKeyLength ∧ (phaseMhdec r).2 ≠ some .invalidBlockLength := by
    obtain he | ⟨bs, -, he⟩ := phaseMhdec_cases r <;> rw [he] <;> simp
  cases row
  case otpMhdec | mhdec => exact mhdecErr
  case otpAes | aesdec => simp [phaseAes_eq]
  case otpLen => simp only [phaseLen]; split <;> simp
  case otpPrefix => simp only [phasePrefix]; split <;> simp
  case otpUid => simp only [phaseUid]; split <;> simp
  case otpCrc => simp only [phaseCrc]; split <;> simp
  case otpSplit | otpParse | mhenc | crc16 => exact ⟨nofun, nofun⟩

/-! The three shapes of a record a command leaves behind: failed, completed, running. -/

theorem controlInv_fail {e : ErrKind} {r : Regs} (h : InBounds r)
    (he : some e ≠ some ErrKind.invalidKeyLength ∧ some e ≠ some ErrKind.invalidBlockLength) :
    ControlInv (fail e r) where
  ok_done := nofun
  failed_err := fun _ _ => nofun
  busy_clear := fun hp => absurd rfl hp
  fresh := fun _ => nofun
  toklen_le := h.toklen_le
  buflen_le := h.buflen_le
  ts_high := h.ts_high
  err_reachable := he

theorem controlInv_complete {r : Regs} (h : InBounds r) : ControlInv (complete r) where
  ok_done := fun _ => ⟨rfl, rfl⟩
  failed_err := fun _ => nofun
  busy_clear := fun hp => absurd rfl hp
  fresh := fun _ => nofun
  toklen_le := h.toklen_le
  buflen_le := h.buflen_le
  ts_high := h.ts_high
  err_reachable := ⟨nofun, nofun⟩

theorem controlInv_of_running {r : Regs} (h : InBounds r) (hdone : r.done = false) (hok : r.ok = false)
    (herr : r.err = none) (hrun : runsAt r.cmd r.phase = true) : ControlInv r where
  ok_done := fun ht => absurd (ht.symm.trans hok) nofun
  failed_err := fun ht => absurd (ht.symm.trans hdone) nofun
  busy_clear := fun _ => ⟨hdone, hok, herr, hrun⟩
  fresh := fun hp => absurd hp (phase_ne_idle_of_runsAt hrun)
  toklen_le := h.toklen_le
  buflen_le := h.buflen_le
  ts_high := h.ts_high
  err_reachable := by rw [herr]; exact ⟨nofun, nofun⟩

/-- Every phase of a running command keeps the invariants (R144). -/
theorem TableRow.controlInv {i : Instr} {p : Phase} {body : Regs → Regs × Option ErrKind} {n : Next}
    (row : TableRow i p body n) {r : Regs} (h : ControlInv r) (hp : r.phase ≠ .idle) (hc : r.cmd = encode i) :
    ControlInv (endPhase n (body r)) := by
  have bounds := row.inBounds h.inBounds
  obtain ⟨e, he, heq⟩ | ⟨-, p', rfl, heq⟩ | ⟨-, -, heq⟩ := endPhase_cases n (body r) <;> rw [heq]
  · exact controlInv_fail bounds (he ▸ row.err_reachable r)
  · have same := row.sameFlags r
    obtain ⟨hdone, hok, herr, -⟩ := h.busy_clear hp
    have hrun : runsAt (body r).1.cmd p' = true := by rw [same.cmd, hc]; exact row.runsAt_goto
    exact controlInv_of_running (bounds.of_eq rfl rfl rfl) (same.done.trans hdone) (same.ok.trans hok)
      (same.err.trans herr) hrun
  · exact controlInv_complete bounds

theorem clearOf_inBounds (i : Instr) {r : Regs} (h : InBounds r) : InBounds (clearOf i r) := by
  obtain ⟨htok, hbuf, hts⟩ := h
  cases i
  case otp => exact ⟨htok, by simp [clearOf], by simp [clearOf]⟩
  case mhdec => exact ⟨htok, by simp [clearOf], hts⟩
  case mhenc => exact ⟨by simp [clearOf], hbuf, hts⟩
  case crc16 | aesdec => exact ⟨htok, hbuf, hts⟩

/-- START of a command gives a running command (R142). -/
theorem controlInv_start (i : Instr) {r : Regs} (h : InBounds r) :
    ControlInv (start (encode i) (firstPhase i) (clearOf i) r) :=
  controlInv_of_running ((clearOf_inBounds i h).of_eq rfl rfl rfl) rfl rfl rfl (runsAt_firstPhase i)

/-! A byte the host stores (R141). -/

/-- The registers a host write cannot reach besides `CMD`, `PHASE` and the flags: the read-only rows of R41. -/
structure SameResults (r q : Regs) : Prop where
  pt : q.pt = r.pt
  crc : q.crc = r.crc
  uc : q.uc = r.uc
  sc : q.sc = r.sc
  ts : q.ts = r.ts

theorem writeReg_same (r : Regs) (g : Reg) (k : Nat) (b : Byte) :
    SameFlags r (writeReg r g k b) ∧ SameResults r (writeReg r g k b) := by
  unfold writeReg
  split
  case h_1 | h_2 => split <;> exact ⟨⟨rfl, rfl, rfl, rfl, rfl⟩, ⟨rfl, rfl, rfl, rfl, rfl⟩⟩
  all_goals exact ⟨⟨rfl, rfl, rfl, rfl, rfl⟩, ⟨rfl, rfl, rfl, rfl, rfl⟩⟩

theorem writeByte_same (r : Regs) (a b : Byte) :
    SameFlags r (writeByte r a b) ∧ SameResults r (writeByte r a b) := by
  unfold writeByte
  split
  · exact writeReg_same r _ _ b
  · exact ⟨⟨rfl, rfl, rfl, rfl, rfl⟩, ⟨rfl, rfl, rfl, rfl, rfl⟩⟩

/-- A stored length is within its register's capacity, for larger ones are ignored (R42). -/
theorem writeReg_inBounds {r : Regs} (h : InBounds r) (g : Reg) (k : Nat) (b : Byte) : InBounds (writeReg r g k b) := by
  have cut_le {w n : Nat} (hb : b.toNat ≤ n) : (b.setWidth w).toNat ≤ n := by
    rw [BitVec.toNat_setWidth]; exact (Nat.mod_le _ _).trans hb
  cases g
  case toklen =>
    simp only [writeReg]
    split
    case isTrue hb => exact ⟨cut_le hb, h.buflen_le, h.ts_high⟩
    case isFalse => exact h
  case buflen =>
    simp only [writeReg]
    split
    case isTrue hb => exact ⟨h.toklen_le, cut_le hb, h.ts_high⟩
    case isFalse => exact h
  all_goals exact h.of_eq rfl rfl rfl

theorem writeByte_inBounds {r : Regs} (h : InBounds r) (a b : Byte) : InBounds (writeByte r a b) := by
  unfold writeByte
  split
  · exact writeReg_inBounds h _ _ b
  · exact h

theorem ControlInv.of_same {r q : Regs} (h : ControlInv r) (flags : SameFlags r q) (results : SameResults r q)
    (bounds : InBounds q) : ControlInv q where
  ok_done := by simpa only [flags.ok, flags.done, flags.err] using h.ok_done
  failed_err := by simpa only [flags.ok, flags.done, flags.err] using h.failed_err
  busy_clear := by simpa only [flags.cmd, flags.phase, flags.ok, flags.done, flags.err] using h.busy_clear
  fresh := by
    simpa only [flags.cmd, flags.phase, flags.ok, flags.done, flags.err, results.pt, results.crc, results.uc,
      results.sc, results.ts] using h.fresh
  toklen_le := bounds.toklen_le
  buflen_le := bounds.buflen_le
  ts_high := bounds.ts_high
  err_reachable := by simpa only [flags.err] using h.err_reachable

theorem controlInv_reset : ControlInv Regs.reset := by constructor <;> decide

/-- `CMD` is 0 at reset, and every clause of the pipeline's invariant is about `CMD = 0x01`. -/
theorem pipelineInv_reset : PipelineInv Regs.reset := by
  have hcmd : Regs.reset.cmd ≠ 0x01 := by decide
  constructor <;> exact fun h => absurd h hcmd

/-- Every way the registers can come about after a step keeps the invariants. -/
theorem RegsAfter.controlInv {r q : Regs} (after : RegsAfter r q) (h : ControlInv r) : ControlInv q := by
  cases after with
  | same => exact h
  | rst => exact controlInv_reset
  | stored a b _ _ =>
    obtain ⟨flags, results⟩ := writeByte_same r a b
    exact h.of_same flags results (writeByte_inBounds h.inBounds a b)
  | illegal w e _ _ => exact controlInv_fail (h.inBounds.of_eq rfl rfl rfl) ⟨nofun, nofun⟩
  | started i _ => exact controlInv_start i h.inBounds
  | phase i f hp hc hf =>
    obtain ⟨body, n, row, rfl⟩ := chainOf_eq_some i r.phase f hf
    exact row.controlInv h hp hc

/-- Settles O55: a step's registers come about in one of the six ways of `RegsAfter`, each of which keeps the
invariants. -/
theorem everyStepKeepsControlInv : Obligations.EveryStepKeepsControlInv :=
  fun s t h hstep => (step_regsAfter s t hstep).controlInv h

/-- Settles O54: both invariants at reset. -/
theorem bothInvariantsHoldAtReset : Obligations.BothInvariantsHoldAtReset :=
  ⟨controlInv_reset, pipelineInv_reset⟩

/-! ## R19: what a command leaves unchanged -/

/-- The registers outside the columns of R19 of command `i` are in `q` what they are in `r`. -/
structure KeepsOutside (i : Instr) (r q : Regs) : Prop where
  pid : q.pid = r.pid
  uid : q.uid = r.uid
  key : q.key = r.key
  token : i ≠ .mhenc → q.tok = r.tok ∧ q.toklen = r.toklen
  bytes : i ≠ .otp → i ≠ .mhdec → q.buf = r.buf ∧ q.buflen = r.buflen
  result : i ≠ .otp → q.ct = r.ct ∧ q.uc = r.uc ∧ q.sc = r.sc ∧ q.ts = r.ts
  plain : i ≠ .otp → i ≠ .aesdec → q.pt = r.pt
  crc : i ≠ .otp → i ≠ .crc16 → q.crc = r.crc

theorem KeepsOutside.refl (i : Instr) (r : Regs) : KeepsOutside i r r :=
  ⟨rfl, rfl, rfl, fun _ => ⟨rfl, rfl⟩, fun _ _ => ⟨rfl, rfl⟩, fun _ => ⟨rfl, rfl, rfl, rfl⟩, fun _ _ => rfl,
    fun _ _ => rfl⟩

/-- `CMD`, `PHASE` and the flags are no part of the frame. -/
theorem KeepsOutside.setControl {i : Instr} {r q : Regs} (h : KeepsOutside i r q) (w : Byte) (p : Phase)
    (done ok : Bool) (err : Option ErrKind) :
    KeepsOutside i r { q with cmd := w, phase := p, done := done, ok := ok, err := err } :=
  ⟨h.pid, h.uid, h.key, h.token, h.bytes, h.result, h.plain, h.crc⟩

theorem KeepsOutside.endPhase {i : Instr} {r : Regs} {x : Regs × Option ErrKind} (h : KeepsOutside i r x.1)
    (n : Next) : KeepsOutside i r (endPhase n x) := by
  obtain ⟨e, -, heq⟩ | ⟨-, p, -, heq⟩ | ⟨-, -, heq⟩ := endPhase_cases n x <;> rw [heq] <;>
    exact h.setControl _ _ _ _ _

theorem clearOf_keepsOutside (i : Instr) (r : Regs) : KeepsOutside i r (clearOf i r) := by
  cases i <;> constructor <;> simp [clearOf]

theorem TableRow.keepsOutside {i : Instr} {p : Phase} {body : Regs → Regs × Option ErrKind} {n : Next}
    (row : TableRow i p body n) (r : Regs) : KeepsOutside i r (body r).1 := by
  cases row
  case otpMhdec | mhdec =>
    obtain he | ⟨bs, -, he⟩ := phaseMhdec_cases r <;> rw [he] <;> constructor <;> simp
  case otpAes | aesdec => rw [phaseAes_eq]; constructor <;> simp
  case otpLen | otpPrefix | otpUid => exact .refl _ r
  case otpSplit => constructor <;> simp [phaseSplit]
  case otpCrc => constructor <;> simp [phaseCrc]
  case otpParse => constructor <;> simp [phaseParse]
  case mhenc => constructor <;> simp [phaseMhenc]
  case crc16 => constructor <;> simp [phaseCrcbuf]

theorem exec_keepsOutside {i : Instr} {s t : State} (h : exec i s = .next t) : KeepsOutside i s.toRegs t.toRegs := by
  obtain ⟨-, rfl⟩ | ⟨-, -, f, hf, rfl⟩ | ⟨-, -, rfl⟩ := exec_next_cases i s t h
  · exact (clearOf_keepsOutside i s.toRegs).setControl _ _ _ _ _
  · obtain ⟨body, n, row, rfl⟩ := chainOf_eq_some i s.phase f hf
    exact (row.keepsOutside s.toRegs).endPhase n
  · exact .refl i _

theorem exec_surroundings {i : Instr} {s t : State} (h : exec i s = .next t) :
    t.hostQueue = s.hostQueue ∧ t.turns = s.turns ∧ t.readData = s.readData :=
  runCommand_surroundings _ _ _ _ s t (exec_eq_runCommand i s ▸ h)

/-- The frame, byte by byte of a register: the columns of R19 as `commandWrites` lists them. -/
theorem KeepsOutside.readReg {i : Instr} {r q : Regs} (h : KeepsOutside i r q) {g : Reg} (hcmd : g ≠ .cmd)
    (hstatus : g ≠ .status) (hphase : g ≠ .phase) (hw : commandWrites i g = false) (k : Nat) :
    readReg q g k = readReg r g k := by
  have not_writer {j : Instr} (hj : commandWrites j g = true) : i ≠ j := by
    rintro rfl; rw [hw] at hj; cases hj
  cases g
  case cmd => exact absurd rfl hcmd
  case status => exact absurd rfl hstatus
  case phase => exact absurd rfl hphase
  case pid => exact congrArg (cell · k) h.pid
  case uid => exact congrArg (cell · k) h.uid
  case key => exact congrArg (cell · k) h.key
  case tok => exact congrArg (cell · k) (h.token (not_writer rfl)).1
  case toklen => exact congrArg (BitVec.setWidth 8) (h.token (not_writer rfl)).2
  case buf => exact congrArg (cell · k) (h.bytes (not_writer rfl) (not_writer rfl)).1
  case buflen => exact congrArg (BitVec.setWidth 8) (h.bytes (not_writer rfl) (not_writer rfl)).2
  case pt => exact congrArg (cell · k) (h.plain (not_writer rfl) (not_writer rfl))
  case crc => exact congrArg (byteOf · k) (h.crc (not_writer rfl) (not_writer rfl))
  all_goals obtain ⟨hct, huc, hsc, hts⟩ := h.result (not_writer rfl)
  case ct => exact congrArg (cell · k) hct
  case uc => exact congrArg (byteOf · k) huc
  case sc => exact hsc
  case ts => exact congrArg (byteOf · k) hts

/-- Settles O39: START's clearing and every phase's body keep what is outside the command's columns of R19. -/
theorem commandFrames : Obligations.CommandFrames := by
  intro i s t h
  have frame := exec_keepsOutside h
  obtain ⟨hqueue, hturns, hread⟩ := exec_surroundings h
  refine ⟨frame.pid, frame.uid, frame.key, hqueue, hturns, hread, frame.token, frame.bytes, frame.result, frame.plain,
    frame.crc, fun a ha => ?_⟩
  unfold readByte
  cases hl : locate a with
  | none => rfl
  | some gk =>
    obtain ⟨hcmd, hstatus, hphase, hw⟩ := ha gk.1 gk.2 hl
    exact frame.readReg hcmd hstatus hphase hw gk.2

/-! ## R25 item 4: freshness -/

/-- "PHASE = 0 and DONE = 0" (R25 item 4). -/
def Fresh (r : Regs) : Prop := r.phase = .idle ∧ r.done = false

/-- The host's oldest access is a write whose next byte goes to `CMD` (R20, R47). -/
def WritesCommand (s : State) : Prop := ∃ n v q, s.hostQueue = .write 0x00 n v :: q ∧ 1 ≤ n

theorem Fresh.congr {r q : Regs} (hphase : q.phase = r.phase) (hdone : q.done = r.done) : Fresh q ↔ Fresh r := by
  rw [Fresh, Fresh, hphase, hdone]

theorem not_fresh_of_busy {r : Regs} (h : r.phase ≠ .idle) : ¬ Fresh r := fun hf => h hf.1

theorem not_fresh_of_done {r : Regs} (h : r.done = true) : ¬ Fresh r := fun hf => absurd (h.symm.trans hf.2) nofun

/-- A phase ends in a busy block or in a finished command (R144, R164, R165). -/
theorem TableRow.not_fresh {i : Instr} {p : Phase} {body : Regs → Regs × Option ErrKind} {n : Next}
    (row : TableRow i p body n) (r : Regs) : ¬ Fresh (endPhase n (body r)) := by
  obtain ⟨e, -, heq⟩ | ⟨-, p', rfl, heq⟩ | ⟨-, -, heq⟩ := endPhase_cases n (body r) <;> rw [heq]
  · exact not_fresh_of_done rfl
  · exact not_fresh_of_busy (phase_ne_idle_of_runsAt row.runsAt_goto)
  · exact not_fresh_of_done rfl

theorem exec_not_fresh {i : Instr} {s t : State} (h : exec i s = .next t) : ¬ Fresh t.toRegs := by
  obtain ⟨-, rfl⟩ | ⟨-, -, f, hf, rfl⟩ | ⟨hp, -, rfl⟩ := exec_next_cases i s t h
  · exact not_fresh_of_busy (phase_ne_idle_of_runsAt (runsAt_firstPhase i))
  · obtain ⟨body, n, row, rfl⟩ := chainOf_eq_some i s.phase f hf
    exact row.not_fresh s.toRegs
  · exact not_fresh_of_busy hp

theorem startWord_not_fresh {w : Byte} {s t : State} (h : startWord w s = .next t) : ¬ Fresh t.toRegs := by
  obtain ⟨i, -, he⟩ | ⟨e, -, he⟩ := startWord_cases w s <;> rw [he] at h
  · exact exec_not_fresh h
  · cases h; exact not_fresh_of_done rfl

theorem blockStep_fresh_iff {s t : State} (h : blockStep s = .next t) : Fresh t.toRegs ↔ Fresh s.toRegs := by
  obtain ⟨-, he⟩ | ⟨hp, i, -, he⟩ | ⟨-, -, he⟩ := blockStep_cases s <;> rw [he] at h
  · cases h; rfl
  · exact iff_of_false (exec_not_fresh h) (not_fresh_of_busy hp)
  · cases h

/-- A host write of one byte ends freshness exactly at address 0x00 (R141, R142). -/
theorem hostWriteByte_fresh_iff {a b : Byte} {s t : State} (h : hostWriteByte a b s = .next t) :
    Fresh t.toRegs ↔ Fresh s.toRegs ∧ a ≠ 0x00 := by
  obtain ⟨hp, he⟩ | ⟨-, ha, he⟩ | ⟨-, ha, he⟩ := hostWriteByte_cases a b s <;> rw [he] at h
  · cases h; exact iff_of_false (not_fresh_of_busy hp) fun hf => not_fresh_of_busy hp hf.1
  · exact iff_of_false (startWord_not_fresh h) fun hf => hf.2 ha
  · cases h
    obtain ⟨flags, -⟩ := writeByte_same s.toRegs a b
    rw [withRegs_toRegs, Fresh.congr flags.phase flags.done, and_iff_left ha]

/-- An 8-bit address is 0x00 as a byte only when it is 0. -/
theorem ofNat_address_eq_zero {addr : Nat} (h : addr < 256) : BitVec.ofNat 8 addr = 0x00 ↔ addr = 0 := by
  rw [← BitVec.toNat_inj]; simp [Nat.mod_eq_of_lt h]

/-- A step of the host ends freshness exactly when its byte goes to `CMD`. -/
theorem hostStep_fresh_iff {s t : State} (h : hostStep s = .next t) :
    Fresh t.toRegs ↔ Fresh s.toRegs ∧ ¬ WritesCommand s := by
  unfold hostStep at h
  split at h
  case h_1 hq => cases h; simp [WritesCommand, hq]
  case h_2 addr n q hq =>
    have hregs : t.toRegs = s.toRegs := by
      split at h
      · split at h <;> cases h <;> rfl
      · cases h
    simp [WritesCommand, hq, hregs]
  case h_3 addr n v q hq =>
    split at h
    case isTrue hok =>
      split at h
      · cases h; simp [WritesCommand, hq]
      · rw [hostWriteByte_fresh_iff h, Ne, ofNat_address_eq_zero hok.1]
        simp [WritesCommand, hq]
    case isFalse => cases h
  case h_4 q hq => cases h; simp [WritesCommand, hq]

/-- Settles O59: by whose turn it is; the block's step keeps freshness both ways, the host's ends it exactly at START. -/
theorem freshnessEndsAtFirstStart : Obligations.FreshnessEndsAtFirstStart := by
  intro s t _ hrst h
  have key : Fresh t.toRegs ↔ Fresh s.toRegs ∧ ¬ ((∀ ts, s.turns ≠ .block :: ts) ∧ WritesCommand s) := by
    obtain ⟨ts, ht, he⟩ | ⟨ts, ht, he⟩ | ⟨ts, ht, -⟩ | ⟨ht, hp, he⟩ | ⟨ht, hp, he⟩ := step_cases s
    · rw [hostStep_fresh_iff (he ▸ h)]; simp [ht, WritesCommand]
    · rw [blockStep_fresh_iff (he ▸ h)]; simp [ht]
    · exact absurd ht (hrst ts)
    · rw [hostStep_fresh_iff (he ▸ h)]; simp [ht]
    · rw [blockStep_fresh_iff (he ▸ h)]; simp [not_fresh_of_busy hp]
  change (¬ Fresh s.toRegs → ¬ Fresh t.toRegs) ∧
    (Fresh s.toRegs → (¬ Fresh t.toRegs ↔ (∀ ts, s.turns ≠ .block :: ts) ∧ WritesCommand s))
  tauto

/-! ## R21: `STATUS` -/

/-- A one-byte host read takes the access from the queue and appends the byte: no register changes (R140, R50). -/
theorem step_read_one {s : State} {a : Byte} {q : List HostOp} {ts : List Turn} (ht : s.turns = .host :: ts)
    (hq : s.hostQueue = .read a.toNat 1 :: q) :
    step s = .next { s with turns := ts, hostQueue := q, readData := s.readData ++ [readByte s.toRegs a] } := by
  have hok : accessOk a.toNat 1 := (accessOk_iff_of_pos _ 1 le_rfl).mpr a.isLt
  simp [step, takeTurn, ht, hostStep, hq, hok, hostReadByte, restOfRead]

theorem busy_iff (r : Regs) : busy r = true ↔ r.phase ≠ .idle := decide_eq_true_iff

theorem res_iff (r : Regs) : res r = true ↔ r.crc = 0xF0B8 := decide_eq_true_iff

/-- `STATUS` is read-only (R41). -/
theorem writeByte_status (r : Regs) (b : Byte) : writeByte r 0x01 b = r := rfl

/-- Settles O43: the parts of the byte R21 lays out, and a read of it as any other one-byte read. -/
theorem statusIsAViewOfTheFlags : Obligations.StatusIsAViewOfTheFlags := by
  refine ⟨fun r b => ?_, rfl, fun s q ts ht hq => step_read_one (a := 0x01) ht hq⟩
  obtain ⟨hbusy, hdone, hok, hres, herr⟩ := status_parts r
  exact ⟨hbusy ▸ busy_iff r, hdone, hok, hres ▸ res_iff r, herr, readByte_status r, writeByte_status r b, by decide, rfl⟩

/-! ## R29: the values after reset -/

@[simp] theorem cell_zeros (n i : Nat) : cell (zeros n) i = 0 := by
  simp [cell, zeros]

@[simp] theorem byteOf_zero (w i : Nat) : byteOf (0 : BitVec w) i = 0 := by
  simp [byteOf]

theorem readReg_reset (g : Reg) (i : Nat) : readReg Regs.reset g i = 0 := by
  cases g
  case cmd | status | phase | toklen | buflen | sc => rfl
  case crc | uc | ts => exact byteOf_zero _ i
  case pid | uid | key | ct | pt | buf | tok => exact cell_zeros _ i

theorem readByte_reset (a : Byte) : readByte Regs.reset a = 0 := by
  unfold readByte
  split
  · exact readReg_reset _ _
  · rfl

/-- Settles O52: the fields as `Regs.reset` sets them, and `readByte_reset` for what the host sees. -/
theorem resetIsAllZero : Obligations.ResetIsAllZero :=
  ⟨rfl, rfl, rfl, rfl, rfl, rfl, rfl, rfl, rfl, rfl, rfl, rfl, rfl, rfl, rfl, rfl, rfl, rfl, rfl, readByte_reset⟩

end Sys2Proof.Machine

/-! The register space (20_memory.md): what the map reads as (R41, R43), its reserved addresses and bits (R42), which
host accesses have a meaning (R47), and the accesses of a busy block (R49, R50) and of several bytes (R47, R140,
R141). -/

namespace Sys2Proof.Machine

/-! ## R41, R43: the register map -/

/-- A row of the map holds each address from its base up to its size, at its offset. -/
theorem locate_region : ∀ g ∈ registerMap, ∀ i < g.size, locate (BitVec.ofNat 8 (g.base + i)) = some (g, i) := by
  decide

theorem readByte_region (r : Regs) {g : Region} (hg : g ∈ registerMap) {i : Nat} (hi : i < g.size) :
    readByte r (BitVec.ofNat 8 (g.base + i)) = readReg r g.reg i := by
  simp only [readByte, locate_region g hg i hi]

theorem byteOf_eq_extractLsb' {w : Nat} (v : BitVec w) (i : Nat) : byteOf v i = v.extractLsb' (8 * i) 8 := by
  ext k hk
  simp [byteOf]

/-- Settles O41: a scalar's bytes are its parts from the low end, an array's row is read by `readByte_region`. -/
theorem registerMapReads : Obligations.RegisterMapReads := by
  intro r
  have row {i : Nat} (g : Region) (hg : g ∈ registerMap) (hi : i < g.size) := readByte_region r hg hi
  refine ⟨rfl, rfl, rfl, rfl, rfl, byteOf_eq_extractLsb' r.crc 0, byteOf_eq_extractLsb' r.crc 1,
    byteOf_eq_extractLsb' r.uc 0, byteOf_eq_extractLsb' r.uc 1, rfl, byteOf_eq_extractLsb' r.ts 0,
    byteOf_eq_extractLsb' r.ts 1, byteOf_eq_extractLsb' r.ts 2, byteOf_eq_extractLsb' r.ts 3, ?_, ?_, ?_, ?_⟩ <;>
    intro i hi
  · exact ⟨row ⟨.pid, 0x08, 6, true⟩ (by decide) hi, row ⟨.uid, 0x10, 6, true⟩ (by decide) hi⟩
  · exact ⟨row ⟨.key, 0x30, 16, true⟩ (by decide) hi, row ⟨.ct, 0x40, 16, true⟩ (by decide) hi,
      row ⟨.pt, 0x50, 16, false⟩ (by decide) hi⟩
  · exact row ⟨.buf, 0x60, 24, true⟩ (by decide) hi
  · exact row ⟨.tok, 0x80, 48, true⟩ (by decide) hi

/-! ## R42: reserved addresses, reserved bits, illegal lengths -/

/-- The addresses of U3: those in no row of the map (R41). -/
def Reserved (a : Byte) : Prop :=
  (0x05 ≤ a.toNat ∧ a.toNat ≤ 0x07) ∨ (0x0E ≤ a.toNat ∧ a.toNat ≤ 0x0F) ∨ (0x16 ≤ a.toNat ∧ a.toNat ≤ 0x17) ∨
    (0x1D ≤ a.toNat ∧ a.toNat ≤ 0x1F) ∨ (0x24 ≤ a.toNat ∧ a.toNat ≤ 0x2F) ∨ (0x78 ≤ a.toNat ∧ a.toNat ≤ 0x7F) ∨
    0xB0 ≤ a.toNat

theorem Reserved.locate_eq_none {a : Byte} (h : Reserved a) : locate a = none := by
  rw [Option.eq_none_iff_forall_ne_some]
  rintro ⟨g, i⟩ hl
  obtain ⟨hg, hi, ha⟩ := locate_inside a g i hl
  have outside : ∀ g ∈ registerMap, a.toNat < g.base ∨ g.base + g.size ≤ a.toNat := by
    simp only [registerMap, List.cons_append, List.nil_append, List.forall_mem_cons, List.not_mem_nil, false_imp_iff,
      implies_true, and_true]
    unfold Reserved at h
    omega
  have hout := outside g hg
  omega

theorem readByte_of_locate_eq_none (r : Regs) {a : Byte} (h : locate a = none) : readByte r a = 0x00 := by
  simp only [readByte, h]

theorem writeByte_of_locate_eq_none (r : Regs) {a : Byte} (b : Byte) (h : locate a = none) : writeByte r a b = r := by
  simp only [writeByte, h]

/-- A register narrower than its byte leaves the byte's upper bits 0. -/
theorem extractLsb'_setWidth_eq_zero {w : Nat} (v : BitVec w) (n len : Nat) :
    (v.setWidth n).extractLsb' w len = 0 := by
  ext k hk
  simp

theorem writeByte_toklen_of_gt (r : Regs) {b : Byte} (h : 48 < b.toNat) : writeByte r 0x03 b = r :=
  if_neg (Nat.not_le_of_lt h)

theorem writeByte_buflen_of_gt (r : Regs) {b : Byte} (h : 24 < b.toNat) : writeByte r 0x04 b = r :=
  if_neg (Nat.not_le_of_lt h)

/-- Settles O42: a reserved address is in no row; a byte above a length register's capacity fails its check. -/
theorem reservedAddressesAndBits : Obligations.ReservedAddressesAndBits := by
  intro r a b
  refine ⟨fun h => ?_, extractLsb'_setWidth_eq_zero r.phase.code 8 4, extractLsb'_setWidth_eq_zero r.toklen 8 2,
    extractLsb'_setWidth_eq_zero r.buflen 8 3, writeByte_toklen_of_gt r, writeByte_buflen_of_gt r⟩
  have hl := Reserved.locate_eq_none h
  exact ⟨readByte_of_locate_eq_none r hl, writeByte_of_locate_eq_none r b hl⟩

/-! ## The host's turn (R8, R47) -/

theorem step_eq_hostStep {s : State} {ts : List Turn} (ht : s.turns = .host :: ts) :
    step s = hostStep { s with turns := ts } := by
  simp only [step, takeTurn, ht]

theorem step_eq_hostStep_of_idle {s : State} (hp : s.phase = .idle) (ht : s.turns = []) : step s = hostStep s := by
  simp only [step, takeTurn, ht, hp, if_true]

section
variable {s : State} {addr n v : Nat} {q : List HostOp}

theorem hostStep_nil (hq : s.hostQueue = []) : hostStep s = .next s := by
  simp only [hostStep, hq]

theorem hostStep_wait (hq : s.hostQueue = .wait :: q) :
    hostStep s = .next (hostReadByte 0x01 { s with
      hostQueue := if (readByte s.toRegs 0x01).getLsbD 1 then q else .wait :: q }) := by
  simp only [hostStep, hq]

theorem hostStep_read (hq : s.hostQueue = .read addr (n + 1) :: q) (hok : accessOk addr (n + 1)) :
    hostStep s = .next (hostReadByte (BitVec.ofNat 8 addr) { s with hostQueue := restOfRead addr n q }) := by
  simp only [hostStep, hq, if_pos hok]

theorem hostStep_write (hq : s.hostQueue = .write addr (n + 1) v :: q) (hok : accessOk addr (n + 1)) :
    hostStep s =
      hostWriteByte (BitVec.ofNat 8 addr) (BitVec.ofNat 8 v) { s with hostQueue := restOfWrite addr n v q } := by
  simp only [hostStep, hq, if_pos hok]

/-- An access of no bytes at an 8-bit address does nothing (notes/assumptions/16.md). -/
theorem hostStep_no_bytes (hq : s.hostQueue = .read addr 0 :: q ∨ s.hostQueue = .write addr 0 v :: q)
    (hok : accessOk addr 0) : hostStep s = .next { s with hostQueue := q } := by
  obtain hq | hq := hq <;> simp only [hostStep, hq, if_pos hok]

/-- An access without a meaning is refused before its first byte (R47, U6). -/
theorem hostStep_refused (hq : s.hostQueue = .read addr n :: q ∨ s.hostQueue = .write addr n v :: q)
    (hok : ¬ accessOk addr n) : hostStep s = .refused (.accessPastEnd addr n) := by
  obtain hq | hq := hq <;> simp only [hostStep, hq, if_neg hok]

end

/-! A byte the host writes (R141): ignored while busy (R49), START at 0x00, stored elsewhere. -/

theorem hostWriteByte_busy {a b : Byte} {s : State} (hp : s.phase ≠ .idle) : hostWriteByte a b s = .next s :=
  if_pos hp

theorem hostWriteByte_start {b : Byte} {s : State} (hp : s.phase = .idle) : hostWriteByte 0x00 b s = startWord b s :=
  (if_neg (not_not_intro hp)).trans (if_pos rfl)

theorem hostWriteByte_store {a b : Byte} {s : State} (hp : s.phase = .idle) (ha : a ≠ 0x00) :
    hostWriteByte a b s = .next (s.withRegs (writeByte s.toRegs a b)) :=
  (if_neg (not_not_intro hp)).trans (if_neg ha)

theorem startWord_not_refused (w : Byte) (s : State) (rf : Refusal) : startWord w s ≠ .refused rf := by
  obtain ⟨i, -, he⟩ | ⟨e, -, he⟩ := startWord_cases w s <;> rw [he]
  · rw [exec_eq_runCommand]; exact runCommand_not_refused _ _ _ _ s rf
  · exact nofun

theorem hostWriteByte_not_refused (a b : Byte) (s : State) (rf : Refusal) : hostWriteByte a b s ≠ .refused rf := by
  obtain ⟨-, he⟩ | ⟨-, -, he⟩ | ⟨-, -, he⟩ := hostWriteByte_cases a b s <;> rw [he]
  · exact nofun
  · exact startWord_not_refused b s rf
  · exact nofun

theorem hostStep_not_refused {s : State} {addr n v : Nat} {q : List HostOp}
    (hq : s.hostQueue = .read addr n :: q ∨ s.hostQueue = .write addr n v :: q) (hn : 1 ≤ n) (hok : accessOk addr n)
    (rf : Refusal) : hostStep s ≠ .refused rf := by
  obtain ⟨k, rfl⟩ := Nat.exists_eq_add_of_le' hn
  obtain hq | hq := hq
  · rw [hostStep_read hq hok]; exact nofun
  · rw [hostStep_write hq hok]; exact hostWriteByte_not_refused _ _ _ rf

/-- Settles O48: `accessOk` decides; an access with a meaning reads or writes its first byte, and neither refuses. -/
theorem accessPastEndIsRefused : Obligations.AccessPastEndIsRefused := by
  intro s addr n v q ts ht hq
  rw [step_eq_hostStep ht]
  refine ⟨fun h => hostStep_refused hq ?_,
    fun hn h => hostStep_not_refused hq hn ((accessOk_iff_of_pos addr n hn).mpr h), fun hn h => ?_⟩
  · simp only [accessOk, Config.regSpace]; omega
  · subst hn
    exact hostStep_no_bytes (s := { s with turns := ts }) hq (by simp only [accessOk, Config.regSpace]; omega)

/-! ## R49, R50, R145: the host while the block is busy -/

theorem hostStep_write_busy {s : State} {addr n v : Nat} {q : List HostOp} (hp : s.phase ≠ .idle)
    (hq : s.hostQueue = .write addr (n + 1) v :: q) (hok : accessOk addr (n + 1)) :
    hostStep s = .next { s with hostQueue := restOfWrite addr n v q } := by
  rw [hostStep_write hq hok]
  exact hostWriteByte_busy hp

/-- Settles O45: the write's one byte is ignored. -/
theorem hostWriteWhileBusyIsIgnored : Obligations.HostWriteWhileBusyIsIgnored := by
  intro s a b q ts hp ht hq
  rw [step_eq_hostStep ht]
  exact hostStep_write_busy (s := { s with turns := ts }) hp hq ((accessOk_iff_of_pos _ 1 le_rfl).mpr a.isLt)

/-- No access of a host whose accesses have a meaning changes a busy block's registers. -/
theorem hostStep_busy {s : State} (hp : s.phase ≠ .idle) (hin : AccessesInRange s) :
    ∃ t, hostStep s = .next t ∧ t.toRegs = s.toRegs ∧ t.turns = s.turns := by
  cases hq : s.hostQueue with
  | nil => exact ⟨_, hostStep_nil hq, rfl, rfl⟩
  | cons o q =>
    have hok : o.inRange := hin o (by simp [hq])
    cases o with
    | read addr n =>
      cases n with
      | zero => exact ⟨_, hostStep_no_bytes (v := 0) (.inl hq) hok, rfl, rfl⟩
      | succ k => exact ⟨_, hostStep_read hq hok, rfl, rfl⟩
    | write addr n v =>
      cases n with
      | zero => exact ⟨_, hostStep_no_bytes (.inr hq) hok, rfl, rfl⟩
      | succ k => exact ⟨_, hostStep_write_busy hp hq hok, rfl, rfl⟩
    | wait => exact ⟨_, hostStep_wait hq, rfl, rfl⟩

/-- Settles O47: `hostStep_busy` on the host's turn. -/
theorem hostCannotDisturbBusyBlock : Obligations.HostCannotDisturbBusyBlock := by
  intro s ts hp ht hin
  rw [step_eq_hostStep ht]
  exact hostStep_busy (s := { s with turns := ts }) hp hin

/-! ## R47, R140: reads of several bytes -/

/-- The host's queue with `n` bytes from `addr` still to read, then `q`. -/
def readsLeft (addr n : Nat) (q : List HostOp) : List HostOp := if n = 0 then q else .read addr n :: q

theorem restOfRead_eq_readsLeft (addr n : Nat) (q : List HostOp) : restOfRead addr n q = readsLeft (addr + 1) n q := rfl

/-- The bytes of an `n`-byte read (R47). -/
def bytesAt (r : Regs) (addr n : Nat) : List Byte := (List.range n).map fun i => readByte r (BitVec.ofNat 8 (addr + i))

@[simp] theorem bytesAt_zero (r : Regs) (addr : Nat) : bytesAt r addr 0 = [] := rfl

theorem bytesAt_succ (r : Regs) (addr n : Nat) :
    bytesAt r addr (n + 1) = readByte r (BitVec.ofNat 8 addr) :: bytesAt r (addr + 1) n := by
  simp [bytesAt, List.range_succ_eq_map, Function.comp_def, Nat.add_assoc, Nat.add_comm 1]

/-- `n` steps of an idle block's host read `n` bytes, and change nothing else. -/
theorem runSteps_read {n : Nat} {s : State} {addr : Nat} {q : List HostOp} (hp : s.phase = .idle) (ht : s.turns = [])
    (hq : s.hostQueue = readsLeft addr n q) (hend : addr + n ≤ 256) :
    runSteps n s = .next { s with hostQueue := q, readData := s.readData ++ bytesAt s.toRegs addr n } := by
  induction n generalizing s addr with
  | zero => subst hq; simp
  | succ k ih =>
    have hok : accessOk addr (k + 1) := (accessOk_iff_of_pos addr _ (by omega)).mpr hend
    have first := (step_eq_hostStep_of_idle hp ht).trans (hostStep_read hq hok)
    rw [runSteps_succ_next k s _ first, bytesAt_succ, List.append_cons]
    exact ih hp ht (restOfRead_eq_readsLeft addr k q) (by omega)

/-- Settles O49: `runSteps_read`, whose bytes are those `memRead` assembles. -/
theorem multiByteReadIsLittleEndian : Obligations.MultiByteReadIsLittleEndian := by
  intro s addr n q hp ht hq hn hend
  have hq' : s.hostQueue = readsLeft addr n q := by rw [hq, readsLeft, if_neg (by omega)]
  refine ⟨_, bytesAt s.toRegs addr n, runSteps_read hp ht hq' hend, rfl, rfl, rfl, by simp [bytesAt],
    fun i hi => by simp [bytesAt, hi], ?_⟩
  exact if_pos ((accessOk_iff_of_pos addr n hn).mpr hend)

/-! ## R47, R141: writes of several bytes -/

/-- The host's queue with the `n` bytes of `v` still to write from `addr` on, then `q`. -/
def writesLeft (addr n v : Nat) (q : List HostOp) : List HostOp := if n = 0 then q else .write addr n v :: q

theorem restOfWrite_eq_writesLeft (addr n v : Nat) (q : List HostOp) :
    restOfWrite addr n v q = writesLeft (addr + 1) n (v / 256) q := rfl

/-- The registers after storing byte `i` of `v` at `addr + i`, for `i` from 0 up (R47). -/
def writeBytes (r : Regs) (addr n v : Nat) : Regs :=
  (List.range n).foldl (fun r i => writeByte r (BitVec.ofNat 8 (addr + i)) (BitVec.ofNat 8 (v / 256 ^ i))) r

theorem writeBytes_succ (r : Regs) (addr n v : Nat) :
    writeBytes r addr (n + 1) v =
      writeBytes (writeByte r (BitVec.ofNat 8 addr) (BitVec.ofNat 8 v)) (addr + 1) n (v / 256) := by
  simp [writeBytes, List.range_succ_eq_map, List.foldl_map, Nat.add_assoc, Nat.add_comm 1, Nat.div_div_eq_div_mul,
    Nat.pow_succ']

/-- A byte of a write to an idle block, at an address other than 0x00, is stored (R141). -/
theorem hostStep_write_store {s : State} {addr n v : Nat} {q : List HostOp} (hp : s.phase = .idle)
    (hq : s.hostQueue = .write addr (n + 1) v :: q) (hok : accessOk addr (n + 1)) (ha : addr ≠ 0) :
    hostStep s = .next { s with
      toRegs := writeByte s.toRegs (BitVec.ofNat 8 addr) (BitVec.ofNat 8 v), hostQueue := restOfWrite addr n v q } := by
  rw [hostStep_write hq hok]
  exact hostWriteByte_store hp (mt (ofNat_address_eq_zero hok.1).mp ha)

/-- The first byte of a write to an idle block at 0x00 is START of it (R141). -/
theorem hostStep_write_start {s : State} {n v : Nat} {q : List HostOp} (hp : s.phase = .idle)
    (hq : s.hostQueue = .write 0 (n + 1) v :: q) (hn : n + 1 ≤ 256) :
    hostStep s = startWord (BitVec.ofNat 8 v) { s with hostQueue := restOfWrite 0 n v q } := by
  rw [hostStep_write hq ((accessOk_iff_of_pos 0 _ (by omega)).mpr (by omega))]
  exact hostWriteByte_start hp

/-- `n` steps of an idle block's host store `n` bytes, none of them at 0x00. -/
theorem runSteps_write {n : Nat} {s : State} {addr v : Nat} {q : List HostOp} (hp : s.phase = .idle)
    (ht : s.turns = []) (hq : s.hostQueue = writesLeft addr n v q) (ha : addr ≠ 0) (hend : addr + n ≤ 256) :
    runSteps n s = .next { s with toRegs := writeBytes s.toRegs addr n v, hostQueue := q } := by
  induction n generalizing s addr v with
  | zero => subst hq; rfl
  | succ k ih =>
    have hok : accessOk addr (k + 1) := (accessOk_iff_of_pos addr _ (by omega)).mpr hend
    have first := (step_eq_hostStep_of_idle hp ht).trans (hostStep_write_store hp hq hok ha)
    obtain ⟨flags, -⟩ := writeByte_same s.toRegs (BitVec.ofNat 8 addr) (BitVec.ofNat 8 v)
    rw [runSteps_succ_next k s _ first, writeBytes_succ]
    exact ih (flags.phase.trans hp) ht (restOfWrite_eq_writesLeft addr k v q) (by omega) (by omega)

/-- `n` turns of a busy block's host drop `n` bytes of a write (R49). -/
theorem runSteps_write_busy {n : Nat} {s : State} {addr v : Nat} {q : List HostOp} {ts : List Turn}
    (hp : s.phase ≠ .idle) (ht : s.turns = List.replicate n .host ++ ts) (hq : s.hostQueue = writesLeft addr n v q)
    (hend : addr + n ≤ 256) :
    runSteps n s = .next { s with hostQueue := q, turns := ts } := by
  induction n generalizing s addr v with
  | zero => subst ht hq; rfl
  | succ k ih =>
    have hok : accessOk addr (k + 1) := (accessOk_iff_of_pos addr _ (by omega)).mpr hend
    have first := (step_eq_hostStep ht).trans (hostStep_write_busy hp hq hok)
    rw [runSteps_succ_next k s _ first]
    exact ih hp rfl (restOfWrite_eq_writesLeft addr k v q) (by omega)

/-- The words 0x00 and 0x06 to 0xFF are no command's (R61). -/
theorem decode_reserved {w : Byte} (h : w.toNat = 0 ∨ 6 ≤ w.toNat) : ∃ e, decode w = .error e := by
  cases hd : decode w with
  | error e => exact ⟨e, rfl⟩
  | ok i =>
    have command_range : 1 ≤ (encode i).toNat ∧ (encode i).toNat ≤ 5 := by cases i <;> decide
    rw [decode_ok_eq_encode w i hd] at h
    omega

theorem decode_encode (i : Instr) : decode (encode i) = .ok i := by cases i <;> rfl

/-- START of a reserved word leaves the block idle (R146). -/
theorem startWord_reserved {w : Byte} (h : w.toNat = 0 ∨ 6 ≤ w.toNat) (s : State) :
    startWord w s = .next (s.withRegs (illegalCommand w s.toRegs)) := by
  obtain ⟨e, he⟩ := decode_reserved h
  simp only [startWord, he]

/-- START of a command leaves the block busy (R142). -/
theorem startWord_encode (i : Instr) {s : State} (hp : s.phase = .idle) :
    startWord (encode i) s = .next (s.withRegs (start (encode i) (firstPhase i) (clearOf i) s.toRegs)) := by
  simp only [startWord, decode_encode]
  exact exec_idle i s hp

/-- Settles O50: a write elsewhere than at 0x00 is `runSteps_write`; one at 0x00 is START, then `runSteps_write` after a
reserved word and `runSteps_write_busy` after a command's. -/
theorem multiByteWriteIsAscending : Obligations.MultiByteWriteIsAscending := by
  refine ⟨?_, ?_, ?_⟩
  · intro s addr n v q hp ht hq hn ha hend
    have hq' : s.hostQueue = writesLeft addr n v q := by rw [hq, writesLeft, if_neg (by omega)]
    exact ⟨_, runSteps_write hp ht hq' (by omega) hend, rfl, rfl, rfl⟩
  · intro s n v q hp ht hq hn hend hv
    obtain ⟨k, rfl⟩ := Nat.exists_eq_add_of_le' hn
    have first := (step_eq_hostStep_of_idle hp ht).trans (hostStep_write_start hp hq hend)
    rw [startWord_reserved (by simpa using hv)] at first
    refine ⟨_, (runSteps_succ_next k s _ first).trans (runSteps_write rfl ht
      (restOfWrite_eq_writesLeft 0 k v q) (by omega) (by omega)), rfl, rfl, ?_⟩
    simp [writeBytes, illegalCommand, fail, hp, Nat.div_div_eq_div_mul, Nat.pow_add]
  · intro s n v i q ts hp ht hq hn hend hi
    obtain ⟨k, rfl⟩ := Nat.exists_eq_add_of_le' hn
    have first := (step_eq_hostStep ht).trans (hostStep_write_start hp hq hend)
    rw [hi] at first
    have started := first.trans (startWord_encode i hp)
    have busy : firstPhase i ≠ .idle := phase_ne_idle_of_runsAt (runsAt_firstPhase i)
    exact ⟨_, _, (runSteps_succ_next k s _ started).trans (runSteps_write_busy busy rfl
      (restOfWrite_eq_writesLeft 0 k v q) (by omega)), exec_idle i s hp, rfl, busy, rfl, rfl, rfl⟩

end Sys2Proof.Machine

/-! The encodings (30_encoding.md): command words (R60, R61), the modhex alphabet (R62, R63), the fields of a payload
(R67, R70) and the script's polling loop `WAIT` (R72). -/

namespace Sys2Proof.Machine

/-! ## R60, R61: command words -/

/-- Settles O1: each word is its command's `encode`. -/
theorem commandWordsReadAsTheirCommands : Obligations.CommandWordsReadAsTheirCommands :=
  ⟨decode_encode .otp, decode_encode .mhdec, decode_encode .mhenc, decode_encode .crc16, decode_encode .aesdec⟩

theorem decode_eq_ok_iff (w : Byte) (i : Instr) : decode w = .ok i ↔ w = encode i :=
  ⟨decode_ok_eq_encode w i, fun h => h ▸ decode_encode i⟩

/-- The words 0x01 to 0x05 are all commands' words (R60). -/
theorem exists_eq_encode {w : Byte} (h1 : 1 ≤ w.toNat) (h5 : w.toNat ≤ 5) : ∃ i, w = encode i := by
  have number : w = BitVec.ofNat 8 w.toNat := by simp
  generalize w.toNat = n at *
  subst number
  interval_cases n
  exacts [⟨.otp, rfl⟩, ⟨.mhdec, rfl⟩, ⟨.mhenc, rfl⟩, ⟨.crc16, rfl⟩, ⟨.aesdec, rfl⟩]

theorem decode_eq_error_iff (w : Byte) : (∃ e, decode w = .error e) ↔ w.toNat = 0 ∨ 6 ≤ w.toNat := by
  refine ⟨fun ⟨e, he⟩ => ?_, decode_reserved⟩
  by_contra hw
  obtain ⟨i, rfl⟩ := exists_eq_encode (w := w) (by omega) (by omega)
  exact absurd (he.symm.trans (decode_encode i)) nofun

/-- Of 256 words, those below 6 other than 0x00 are the five commands' (R61). -/
theorem reservedWords_length : ((List.range 256).filter fun n => decide (n = 0 ∨ 6 ≤ n)).length = 251 := by
  have parts : List.range 256 = List.range 6 ++ (List.range 250).map (6 + ·) := List.range_add (n := 6) (m := 250)
  have low : (List.range 6).filter (fun n => decide (n = 0 ∨ 6 ≤ n)) = [0] := by decide
  rw [parts, List.filter_append, low, List.filter_eq_self.mpr (by simp)]
  simp

/-- Settles O2: `decode` is the inverse of `encode`, whose values are 0x01 to 0x05. -/
theorem decodeInvertsEncode : Obligations.DecodeInvertsEncode :=
  ⟨decode_eq_ok_iff, decode_eq_error_iff, reservedWords_length⟩

/-! ## R62, R63: the modhex alphabet -/

theorem mhVal_mhSym (n : Nibble) : mhVal (mhSym n) = some n := by
  revert n; decide

/-- `mh_val` is the position of the character in the alphabet, as a nibble (R62). -/
theorem mhVal_eq_map (ch : Byte) :
    mhVal ch = (alphabet.findIdx? fun c => decide (c = ch)).map (BitVec.ofNat 4) := by
  unfold mhVal
  split <;> simp [*]

theorem mhSym_of_mhVal {ch : Byte} {n : Nibble} (h : mhVal ch = some n) : mhSym n = ch := by
  rw [mhVal_eq_map, Option.map_eq_some_iff] at h
  obtain ⟨k, hk, rfl⟩ := h
  obtain ⟨hlt, hch, -⟩ := List.findIdx?_eq_some_iff_getElem.mp hk
  have hnibble : (BitVec.ofNat 4 k).toNat = k := Nat.mod_eq_of_lt hlt
  simpa [mhSym, hnibble, hlt] using hch

theorem inAlphabet_iff_mem (ch : Byte) : inAlphabet ch = true ↔ ch ∈ alphabet := by
  simp [inAlphabet, mhVal_eq_map]

/-- The character codes inside the alphabet are its 16 members, each once. -/
theorem insideAlphabet_perm :
    ((List.range 256).filter fun n => inAlphabet (BitVec.ofNat 8 n)).Perm (alphabet.map BitVec.toNat) := by
  refine (List.perm_ext_iff_of_nodup (List.nodup_range.filter _) (by decide)).mpr fun n => ?_
  simp only [List.mem_filter, List.mem_range, inAlphabet_iff_mem, List.mem_map]
  constructor
  · exact fun ⟨hn, hmem⟩ => ⟨_, hmem, Nat.mod_eq_of_lt hn⟩
  · rintro ⟨ch, hmem, rfl⟩
    exact ⟨ch.isLt, by simpa using hmem⟩

theorem outsideAlphabet_length :
    ((List.range 256).filter fun n => !inAlphabet (BitVec.ofNat 8 n)).length = 240 := by
  have total := List.length_eq_length_filter_add (l := List.range 256) fun n => inAlphabet (BitVec.ofNat 8 n)
  have inside : (alphabet.map BitVec.toNat).length = 16 := rfl
  rw [insideAlphabet_perm.length_eq, inside, List.length_range] at total
  omega

/-- Settles O3: the table in nibble order, `mh_val` and `mh_sym` inverse on it, and the codes outside counted as 256
less the 16 inside. -/
theorem alphabetIsTheSixteenSymbols : Obligations.AlphabetIsTheSixteenSymbols :=
  ⟨by decide, mhVal_mhSym, fun _ _ => mhSym_of_mhVal, outsideAlphabet_length⟩

/-! ## R67, R70: the fields of a payload -/

/-- The fields of a payload lie in its bytes 0 to 11 (R67). -/
theorem parsePayload_take (p : List Byte) : parsePayload (p.take 12) = parsePayload p := by
  simp [parsePayload]

/-- Settles O19: both payloads parse as their first 12 bytes. -/
theorem parseIgnoresRandomFieldAndTrailer : Obligations.ParseIgnoresRandomFieldAndTrailer := fun p q h =>
  calc parsePayload p = parsePayload (p.take 12) := (parsePayload_take p).symm
    _ = parsePayload (q.take 12) := by rw [h]
    _ = parsePayload q := parsePayload_take q

/-! ## R72: the polling loop -/

/-- One poll of `WAIT` on the host's turn: `STATUS` is read, and bit 1 of it, `DONE`, decides (R21, R72). -/
theorem step_wait {s : State} {q : List HostOp} {ts : List Turn} (ht : s.turns = .host :: ts)
    (hq : s.hostQueue = .wait :: q) :
    step s = .next { s with
      turns := ts, hostQueue := if s.done then q else s.hostQueue, readData := s.readData ++ [status s.toRegs] } := by
  obtain ⟨-, hdone, -⟩ := status_parts s.toRegs
  rw [step_eq_hostStep ht, hostStep_wait (s := { s with turns := ts }) hq]
  simp only [readByte_status, hdone, hostReadByte, hq]

/-- Settles O51: `step_wait` for each value of `DONE`. -/
theorem waitEndsWhenDone : Obligations.WaitEndsWhenDone := by
  intro s q ts ht hq
  rw [step_wait ht hq]
  exact ⟨fun hd => by rw [if_pos hd], fun hd => by rw [if_neg (by simp [hd])]⟩

end Sys2Proof.Machine

/-! The modhex unit (40_modhex.md): the function layer (R81 to R83) and the commands `MHDEC` (R84) and `MHENC` (R85). -/

namespace Sys2Proof.Machine

/-! ## R64: a byte and its two symbols -/

theorem inAlphabet_iff (ch : Byte) : inAlphabet ch = true ↔ ∃ n, mhVal ch = some n := Option.isSome_iff_exists

theorem inAlphabet_mhSym (n : Nibble) : inAlphabet (mhSym n) = true := (inAlphabet_iff _).mpr ⟨n, mhVal_mhSym n⟩

theorem packByte_of_mhVal {a b : Byte} {hi lo : Nibble} (ha : mhVal a = some hi) (hb : mhVal b = some lo) :
    packByte a b = (hi.setWidth 8 <<< 4) ||| lo.setWidth 8 := by
  rw [packByte, ha, hb]; rfl

/-- A byte is its high nibble, then its low nibble (R64). -/
theorem packByte_eq_append {a b : Byte} {hi lo : Nibble} (ha : mhVal a = some hi) (hb : mhVal b = some lo) :
    packByte a b = hi ++ lo := by
  rw [packByte_of_mhVal ha hb, ← BitVec.setWidth_append_eq_shiftLeft_setWidth_or, BitVec.setWidth_eq]

theorem packByte_mhSym (b : Byte) : packByte (mhSym (b.extractLsb' 4 4)) (mhSym (b.extractLsb' 0 4)) = b := by
  rw [packByte_eq_append (mhVal_mhSym _) (mhVal_mhSym _)]
  exact BitVec.extractLsb'_append_extractLsb' (w := 4)

theorem mhSym_packByte {a b : Byte} (ha : inAlphabet a = true) (hb : inAlphabet b = true) :
    mhSym ((packByte a b).extractLsb' 4 4) = a ∧ mhSym ((packByte a b).extractLsb' 0 4) = b := by
  obtain ⟨hi, hhi⟩ := (inAlphabet_iff a).mp ha
  obtain ⟨lo, hlo⟩ := (inAlphabet_iff b).mp hb
  rw [packByte_eq_append hhi hlo, BitVec.extractLsb'_append_eq_left, BitVec.extractLsb'_append_eq_right]
  exact ⟨mhSym_of_mhVal hhi, mhSym_of_mhVal hlo⟩

/-! ## R81: `modhex_decode` -/

theorem packPairs_getD : ∀ (t : List Byte) (k : Nat), k < t.length / 2 →
    (packPairs t).getD k 0 = packByte (t.getD (2 * k) 0) (t.getD (2 * k + 1) 0)
  | [], _, h | [_], _, h => by simp at h
  | _ :: _ :: _, 0, _ => rfl
  | _ :: _ :: rest, k + 1, h => packPairs_getD rest k (by simp only [List.length_cons] at h; omega)

theorem modhexDecode_eq_error {t : List Byte} (h : (∃ ch ∈ t, inAlphabet ch = false) ∨ t.length % 2 = 1) :
    modhexDecode t = .error .invalidEncoding := by
  obtain ⟨he, -⟩ | ⟨-, hall, heven⟩ := modhexDecode_cases t
  · exact he
  · obtain ⟨ch, hmem, hch⟩ | hodd := h
    · simp [List.all_eq_true.mp hall ch hmem] at hch
    · omega

theorem modhexDecode_eq_ok {t : List Byte} (hall : ∀ ch ∈ t, inAlphabet ch = true) (heven : t.length % 2 = 0) :
    modhexDecode t = .ok (packPairs t) := by
  rw [modhexDecode, if_pos (List.all_eq_true.mpr hall), if_neg (by omega)]

/-- Settles O4: `modhex_decode` packs the pairs, each of two symbols of the alphabet. -/
theorem modhexDecodeOfAnyText : Obligations.ModhexDecodeOfAnyText := by
  refine fun t => ⟨modhexDecode_eq_error, fun ⟨hall, heven⟩ => ?_⟩
  refine ⟨packPairs t, modhexDecode_eq_ok hall heven, packPairs_length t, fun k hk => ?_⟩
  have symbol (i : Nat) (hi : i < t.length) : ∃ n, mhVal (t.getD i 0) = some n := by
    rw [← inAlphabet_iff, List.getD_eq_getElem t 0 hi]
    exact hall _ (List.getElem_mem hi)
  obtain ⟨hi, hhi⟩ := symbol (2 * k) (by omega)
  obtain ⟨lo, hlo⟩ := symbol (2 * k + 1) (by omega)
  exact ⟨hi, lo, hhi, hlo, by rw [packPairs_getD t k hk, packByte_of_mhVal hhi hlo]⟩

/-! ## R82: `modhex_encode` -/

theorem modhexEncode_getD (bs : List Byte) (k : Nat) (h : k < bs.length) :
    (modhexEncode bs).getD (2 * k) 0 = mhSym ((bs.getD k 0).extractLsb' 4 4) ∧
    (modhexEncode bs).getD (2 * k + 1) 0 = mhSym ((bs.getD k 0).extractLsb' 0 4) := by
  induction bs generalizing k with
  | nil => simp at h
  | cons b bs ih =>
    rw [modhexEncode_cons]
    cases k with
    | zero => exact ⟨rfl, rfl⟩
    | succ k => exact ih k (by simpa using h)

/-- Settles O5: the length is `modhexEncode_length`, the characters are `modhexEncode_getD`. -/
theorem modhexEncodeOfAnyBytes : Obligations.ModhexEncodeOfAnyBytes :=
  fun bs => ⟨modhexEncode_length bs, modhexEncode_getD bs⟩

/-! ## R83: the round trip -/

theorem packPairs_modhexEncode (bs : List Byte) : packPairs (modhexEncode bs) = bs := by
  induction bs with
  | nil => rfl
  | cons b bs ih => rw [modhexEncode_cons, packPairs, packByte_mhSym, ih]

theorem inAlphabet_of_mem_modhexEncode {bs : List Byte} {ch : Byte} (h : ch ∈ modhexEncode bs) :
    inAlphabet ch = true := by
  obtain ⟨b, -, hch⟩ := List.mem_flatMap.mp h
  obtain rfl | rfl : ch = mhSym (b.extractLsb' 4 4) ∨ ch = mhSym (b.extractLsb' 0 4) := by simpa using hch
  all_goals exact inAlphabet_mhSym _

theorem modhexDecode_modhexEncode (bs : List Byte) : modhexDecode (modhexEncode bs) = .ok bs := by
  rw [modhexDecode_eq_ok (fun _ => inAlphabet_of_mem_modhexEncode) (by rw [modhexEncode_length]; omega),
    packPairs_modhexEncode]

theorem modhexEncode_packPairs : ∀ t : List Byte, (∀ ch ∈ t, inAlphabet ch = true) → t.length % 2 = 0 →
    modhexEncode (packPairs t) = t
  | [], _, _ => rfl
  | [_], _, heven => by simp at heven
  | hi :: lo :: rest, hall, heven => by
    obtain ⟨hhi, hlo, hrest⟩ : inAlphabet hi = true ∧ inAlphabet lo = true ∧ ∀ ch ∈ rest, inAlphabet ch = true := by
      simpa using hall
    obtain ⟨high, low⟩ := mhSym_packByte hhi hlo
    rw [packPairs, modhexEncode_cons, high, low,
      modhexEncode_packPairs rest hrest (by simp only [List.length_cons] at heven; omega)]

/-- Settles O6: an accepted text is packed pairs of symbols, and packing and encoding undo each other. -/
theorem modhexRoundTrip : Obligations.ModhexRoundTrip := by
  refine ⟨modhexDecode_modhexEncode, fun t bs h => ?_⟩
  obtain ⟨he, -⟩ | ⟨he, hall, heven⟩ := modhexDecode_cases t <;> rw [he] at h <;> cases h
  exact modhexEncode_packPairs t (List.all_eq_true.mp hall) heven

/-! ## Byte-array registers as sequences -/

theorem slice_zero_getD {n : Nat} (v : Vector Byte n) {len i : Nat} (h : i < len) :
    (slice v 0 len).getD i 0 = cell v i := by
  simp [slice, cell, List.getD_eq_getElem?_getD, h]

theorem mem_slice_zero {n : Nat} (v : Vector Byte n) {len : Nat} (hlen : len ≤ n) {ch : Byte} :
    ch ∈ slice v 0 len ↔ ∃ i, i < len ∧ cell v i = ch := by
  have length : (slice v 0 len).length = len := by rw [slice_length]; omega
  rw [List.mem_iff_getElem]
  constructor
  · rintro ⟨i, hi, rfl⟩
    have hi' : i < len := length ▸ hi
    exact ⟨i, hi', by rw [← slice_zero_getD v hi', List.getD_eq_getElem _ _ hi]⟩
  · rintro ⟨i, hi, rfl⟩
    exact ⟨i, by omega, by rw [← slice_zero_getD v hi, List.getD_eq_getElem]⟩

theorem overwrite_eq_append {new old : List Byte} (h : new.length ≤ old.length) :
    overwrite new old = new ++ old.drop new.length := by
  induction new generalizing old with
  | nil => rfl
  | cons b bs ih =>
    cases old with
    | nil => simp at h
    | cons o rest => simp [overwrite, ih (by simpa using h)]

theorem slice_store {n : Nat} (v : Vector Byte n) {bs : List Byte} (h : bs.length ≤ n) :
    slice (store v bs) 0 bs.length = bs := by
  simp [slice, overwrite_eq_append, h]

theorem cell_store_zeros {n : Nat} (bs : List Byte) {i : Nat} (h : i < n) :
    cell (store (zeros n) bs) i = bs.getD i 0 := by
  rw [cell_store _ _ _ h, cell_zeros]
  split
  · rfl
  · rw [List.getD_eq_default _ _ (by omega)]

theorem tokenText_length {r : Regs} (h : r.toklen.toNat ≤ 48) : (tokenText r).length = r.toklen.toNat := by
  rw [tokenText, slice_length]; omega

theorem tokenText_getD (r : Regs) {i : Nat} (h : i < r.toklen.toNat) : (tokenText r).getD i 0 = cell r.tok i :=
  slice_zero_getD r.tok h

theorem bufBytes_getD (r : Regs) {i : Nat} (h : i < r.buflen.toNat) : (bufBytes r).getD i 0 = cell r.buf i :=
  slice_zero_getD r.buf h

theorem bufBytes_length {r : Regs} (h : r.buflen.toNat ≤ 24) : (bufBytes r).length = r.buflen.toNat := by
  rw [bufBytes, slice_length]; omega

/-! ## Commands of one phase -/

/-- A row of the table is what its command's chain holds (R143). -/
theorem TableRow.chainOf_eq {i : Instr} {p : Phase} {body : Regs → Regs × Option ErrKind} {n : Next}
    (row : TableRow i p body n) : chainOf i p = some fun r => endPhase n (body r) := by
  cases row <;> rfl

/-- The registers after START of a command (R142). -/
def started (i : Instr) (r : Regs) : Regs := start (encode i) (firstPhase i) (clearOf i) r

theorem exec_started {i : Instr} {s : State} (h : s.phase = .idle) :
    exec i s = .next (s.withRegs (started i s.toRegs)) :=
  exec_idle i s h

/-- After START, the first phase of the command (R142, R144). -/
theorem exec_firstPhase {i : Instr} {body : Regs → Regs × Option ErrKind} {n : Next}
    (row : TableRow i (firstPhase i) body n) (s : State) (r : Regs) :
    exec i (s.withRegs (started i r)) = .next (s.withRegs (endPhase n (body (started i r)))) :=
  exec_running i (s.withRegs (started i r)) _ (phase_ne_idle_of_runsAt (runsAt_firstPhase i)) rfl row.chainOf_eq

/-! ## R84: `MHDEC` -/

@[simp] theorem tokenText_started_mhdec (r : Regs) : tokenText (started .mhdec r) = tokenText r := rfl

/-- The end of an `MHDEC` whose text `modhex_decode` rejects: the cleared `BUF` stays (R84). -/
theorem mhdec_end_of_error {r : Regs} {e : ErrKind} (h : modhexDecode (tokenText r) = .error e) :
    endPhase .finish (phaseMhdec (started .mhdec r)) =
      { r with
        cmd := 0x02, phase := .idle, done := true, ok := false, err := some e, buf := zeros 24, buflen := 0 } := by
  simp only [phaseMhdec, tokenText_started_mhdec, h]
  rfl

/-- The end of an `MHDEC` whose text `modhex_decode` accepts (R84). -/
theorem mhdec_end_of_ok {r : Regs} {bs : List Byte} (h : modhexDecode (tokenText r) = .ok bs) :
    endPhase .finish (phaseMhdec (started .mhdec r)) =
      { r with
        cmd := 0x02, phase := .idle, done := true, ok := true, err := none,
        buf := store (zeros 24) bs, buflen := BitVec.ofNat 5 bs.length } := by
  simp only [phaseMhdec, tokenText_started_mhdec, h]
  rfl

/-- Settles O24: the clauses are the two answers of `modhex_decode` on `TOK[0..TOKLEN-1]`. -/
theorem mhdecDecodesTokenBuffer : Obligations.MhdecDecodesTokenBuffer := by
  intro s hp hlen
  have length := tokenText_length hlen
  have member {ch : Byte} : ch ∈ tokenText s.toRegs ↔ ∃ i, i < s.toklen.toNat ∧ cell s.tok i = ch :=
    mem_slice_zero s.tok hlen
  refine ⟨_, _, exec_started hp, exec_firstPhase .mhdec s s.toRegs, fun hbad => ?_, fun ⟨hall, heven⟩ => ?_⟩
  · have bad : (∃ ch ∈ tokenText s.toRegs, inAlphabet ch = false) ∨ (tokenText s.toRegs).length % 2 = 1 := by
      simpa [member, length] using hbad
    rw [mhdec_end_of_error (modhexDecode_eq_error bad)]
    rfl
  · have good : modhexDecode (tokenText s.toRegs) = .ok (packPairs (tokenText s.toRegs)) :=
      modhexDecode_eq_ok (by simpa [member] using hall) (by rwa [length])
    have count : (packPairs (tokenText s.toRegs)).length = s.toklen.toNat / 2 := by rw [packPairs_length, length]
    rw [mhdec_end_of_ok good]
    refine ⟨rfl, ?_, fun i hi => ?_, fun i hlo hhi => ?_⟩ <;> rw [withRegs_toRegs]
    · rw [BitVec.toNat_ofNat, Nat.mod_eq_of_lt (by omega), count]
    · rw [cell_store_zeros _ (by omega), packPairs_getD _ _ (by omega), tokenText_getD _ (by omega),
        tokenText_getD _ (by omega)]
    · rw [cell_store_zeros _ hhi, List.getD_eq_default _ _ (by omega)]

/-! ## R85: `MHENC` -/

/-- The registers after `MHENC` (R85). -/
def encoded (r : Regs) : Regs :=
  { r with
    cmd := 0x03, phase := .idle, done := true, ok := true, err := none,
    tok := store (zeros 48) (modhexEncode (bufBytes r)),
    toklen := BitVec.ofNat 6 (modhexEncode (bufBytes r)).length }

theorem mhenc_end (r : Regs) : endPhase .finish (phaseMhenc (started .mhenc r)) = encoded r := rfl

theorem modhexEncode_bufBytes_length {r : Regs} (h : r.buflen.toNat ≤ 24) :
    (modhexEncode (bufBytes r)).length = 2 * r.buflen.toNat := by
  rw [modhexEncode_length, bufBytes_length h]

theorem encoded_toklen {r : Regs} (h : r.buflen.toNat ≤ 24) : (encoded r).toklen.toNat = 2 * r.buflen.toNat := by
  rw [encoded, modhexEncode_bufBytes_length h, BitVec.toNat_ofNat, Nat.mod_eq_of_lt (by omega)]

/-- The text `MHENC` leaves in `TOK` is the one `modhex_encode` gives. -/
theorem tokenText_encoded {r : Regs} (h : r.buflen.toNat ≤ 24) : tokenText (encoded r) = modhexEncode (bufBytes r) := by
  have count := modhexEncode_bufBytes_length h
  rw [tokenText, encoded_toklen h, ← count]
  exact slice_store _ (by omega)

/-- Settles O25: the characters are `modhexEncode_getD`, and `MHDEC` decodes them by the round trip of R83. -/
theorem mhencEncodesByteBuffer : Obligations.MhencEncodesByteBuffer := by
  intro s hp hlen
  have length := bufBytes_length hlen
  have count := modhexEncode_bufBytes_length hlen
  have decoded : modhexDecode (tokenText (encoded s.toRegs)) = .ok (bufBytes s.toRegs) := by
    rw [tokenText_encoded hlen, modhexDecode_modhexEncode]
  refine ⟨_, s.withRegs (encoded s.toRegs), exec_started hp, exec_firstPhase .mhenc s s.toRegs, rfl,
    encoded_toklen hlen, fun i hi => ?_, fun i hlo hhi => ?_, _, _, exec_started rfl, exec_firstPhase .mhdec _ _, ?_⟩
  · rw [withRegs_toRegs, encoded, cell_store_zeros _ (by omega), cell_store_zeros _ (by omega), ← bufBytes_getD _ hi]
    exact modhexEncode_getD _ i (by omega)
  · rw [withRegs_toRegs, encoded, cell_store_zeros _ hhi, List.getD_eq_default _ _ (by omega)]
  · rw [withRegs_toRegs, withRegs_toRegs, mhdec_end_of_ok decoded]
    refine ⟨rfl, ?_, fun i hi => ?_⟩
    · simp [length]
    · rw [cell_store_zeros _ (by omega), bufBytes_getD _ hi]

end Sys2Proof.Machine

/-! The CRC unit (41_crc16.md): the algorithm (R91 to R93), its laws (R96) and the command `CRC16` (R95). -/

namespace Sys2Proof.Machine

/-! ## R92, R93: the bit step and the byte step -/

theorem crcBit_toNat (r : Half) :
    (crcBit r).toNat = if r.toNat % 2 = 1 then (r.toNat / 2) ^^^ 0x8408 else r.toNat / 2 := by
  have half : (r >>> 1).toNat = r.toNat / 2 := by rw [BitVec.toNat_ushiftRight, Nat.shiftRight_one]
  simp only [crcBit, BitVec.getLsbD, Nat.testBit_zero, decide_eq_true_eq, ← half]
  split <;> rfl

theorem crcBits_eq_iterate (n : Nat) (r : Half) : crcBits n r = crcBit^[n] r := by
  induction n generalizing r with
  | zero => rfl
  | succ k ih => rw [crcBits, ih, Function.iterate_succ_apply]

theorem crcBits_add (m n : Nat) (r : Half) : crcBits (m + n) r = crcBits m (crcBits n r) := by
  simp only [crcBits_eq_iterate, Function.iterate_add_apply]

theorem crc16_append (d e : List Byte) : crc16 (d ++ e) = e.foldl crcByte (crc16 d) :=
  crc_foldl_append Config.crcInit d e

/-- Settles O7: the loop's start, its last byte by `crc16_append`, and `crcBit_toNat`. -/
theorem crcByteAndBitSteps : Obligations.CrcByteAndBitSteps :=
  ⟨rfl, fun d b => (crc16_append d [b]).trans (crcBits_eq_iterate 8 _), crcBit_toNat⟩

/-! ## R96 item 1: concatenation -/

/-- Settles O8: by `crc16_append` the rest of the loop starts from the first part's `crc16`. -/
theorem crcOfConcatenationFollowsFirstPart : Obligations.CrcOfConcatenationFollowsFirstPart := by
  intro d d' e h
  rw [crc16_append, crc16_append, h]

/-! ## R96 item 2: the residue

The bit step is linear over exclusive-or and halves an even register, so 8 steps bring a byte down from the high half.
Hence two byte steps are 16 bit steps with both bytes exclusive-ored in beforehand. -/

theorem crcBit_eq_xor (r : Half) : crcBit r = (r >>> 1) ^^^ (if r.getLsbD 0 then Config.crcPoly else 0) := by
  unfold crcBit; split <;> simp

theorem crcBit_xor (a b : Half) : crcBit (a ^^^ b) = crcBit a ^^^ crcBit b := by
  have poly : (if (a ^^^ b).getLsbD 0 then Config.crcPoly else 0) =
      (if a.getLsbD 0 then Config.crcPoly else 0) ^^^ (if b.getLsbD 0 then Config.crcPoly else 0) := by
    rw [BitVec.getLsbD_xor]
    cases a.getLsbD 0 <;> cases b.getLsbD 0 <;> rfl
  rw [crcBit_eq_xor, crcBit_eq_xor a, crcBit_eq_xor b, poly, BitVec.ushiftRight_xor_distrib]
  ac_rfl

theorem crcBits_xor (n : Nat) (a b : Half) : crcBits n (a ^^^ b) = crcBits n a ^^^ crcBits n b := by
  induction n generalizing a b with
  | zero => rfl
  | succ k ih => rw [crcBits, crcBit_xor, ih, crcBits, crcBits]

theorem crcBits_of_toNat_eq_mul {n : Nat} {v w : Half} (h : v.toNat = w.toNat * 2 ^ n) : crcBits n v = w := by
  induction n generalizing v with
  | zero => exact BitVec.eq_of_toNat_eq (by rw [crcBits, h, pow_zero, mul_one])
  | succ k ih =>
    rw [pow_succ, ← mul_assoc] at h
    exact ih (by rw [crcBit_toNat, if_neg (by omega)]; omega)

theorem crcBits_highByte (b : Byte) : crcBits 8 (b.setWidth 16 <<< 8) = b.setWidth 16 := by
  have small : (b.setWidth 16 : Half).toNat < 2 ^ 8 := by rw [BitVec.toNat_setWidth_of_le (by decide)]; exact b.isLt
  refine crcBits_of_toNat_eq_mul ?_
  rw [BitVec.toNat_shiftLeft, Nat.shiftLeft_eq, Nat.mod_eq_of_lt (by omega)]

theorem le16_eq_xor (b0 b1 : Byte) : le16 b0 b1 = b0.setWidth 16 ^^^ b1.setWidth 16 <<< 8 := by
  ext i hi
  by_cases h : i < 8
  · simp [le16, h]
  · simp [le16, h, BitVec.getLsbD_of_ge b0 i (by omega)]

theorem le16_byteOf (v : Half) : le16 (byteOf v 0) (byteOf v 1) = v := by
  rw [le16, ← BitVec.setWidth_append_eq_shiftLeft_setWidth_or, BitVec.setWidth_eq, byteOf_eq_extractLsb',
    byteOf_eq_extractLsb']
  exact BitVec.extractLsb'_append_extractLsb' (w := 8)

theorem crcByte_crcByte (r : Half) (b0 b1 : Byte) : crcByte (crcByte r b0) b1 = crcBits 16 (r ^^^ le16 b0 b1) :=
  calc crcByte (crcByte r b0) b1
      = crcBits 8 (crcBits 8 (r ^^^ b0.setWidth 16) ^^^ b1.setWidth 16) := rfl
    _ = crcBits 8 (crcBits 8 ((r ^^^ b0.setWidth 16) ^^^ b1.setWidth 16 <<< 8)) := by
        rw [crcBits_xor 8 (r ^^^ b0.setWidth 16), crcBits_highByte]
    _ = crcBits 16 (r ^^^ le16 b0 b1) := by rw [← crcBits_add, le16_eq_xor, BitVec.xor_assoc]

/-- Settles O9: the trailer turns the register into all ones, and 16 bit steps of that are the residue. -/
theorem crcResidueOfComplementedTrailer : Obligations.CrcResidueOfComplementedTrailer := fun m =>
  calc crc16 (m ++ [byteOf (crc16 m ^^^ 0xFFFF) 0, byteOf (crc16 m ^^^ 0xFFFF) 1])
      = crcByte (crcByte (crc16 m) (byteOf (crc16 m ^^^ 0xFFFF) 0)) (byteOf (crc16 m ^^^ 0xFFFF) 1) := crc16_append m _
    _ = crcBits 16 (crc16 m ^^^ (crc16 m ^^^ 0xFFFF)) := by rw [crcByte_crcByte, le16_byteOf]
    _ = crcBits 16 0xFFFF := by rw [← BitVec.xor_assoc, BitVec.xor_self, BitVec.zero_xor]
    _ = 0xF0B8 := by decide +kernel

/-! ## R95: `CRC16` -/

/-- The end of `CRC16` (R95): `BUF` and `BUFLEN` are those before START. -/
theorem crc16_end (r : Regs) :
    endPhase .finish (phaseCrcbuf (started .crc16 r)) =
      { r with cmd := 0x04, phase := .idle, done := true, ok := true, err := none, crc := crc16 (bufBytes r) } := rfl

/-- Settles O26: the two steps are START and `P_CRCBUF`, whose CRC is that of `BUF[0..BUFLEN-1]`. -/
theorem crc16ComputesCrcOfBuffer : Obligations.Crc16ComputesCrcOfBuffer := by
  intro s hp _
  refine ⟨_, _, exec_started hp, exec_firstPhase .crc16 s s.toRegs, ?_⟩
  rw [crc16_end]
  refine ⟨rfl, res_iff _, fun hlen => ?_⟩
  have empty : bufBytes s.toRegs = [] := by simp [bufBytes, slice, hlen]
  rw [empty]
  exact ⟨rfl, rfl⟩

end Sys2Proof.Machine

/-! The cipher unit (42_aes_decrypt.md): the field GF(2^8) and its tables (R103 to R105), the key expansion (R106), the
round operations (R107 to R110), the inverse cipher (R111), `decrypt_block` (R100) and the command `AESDEC` (R112). -/

namespace Sys2Proof.Machine

/-! ## R103: the field

`xtime` is linear over exclusive-or, so `gmul` is linear in both operands. `0x01` spans all bytes under exclusive-or and
`xtime`, and on both operands `gmul` commutes with these two: that gives commutativity and associativity. -/

theorem xtime_xor (a b : Byte) : xtime (a ^^^ b) = xtime a ^^^ xtime b := by
  have carry : (if (a ^^^ b).getLsbD 7 then 0x1B else 0x00 : Byte) =
      (if a.getLsbD 7 then 0x1B else 0x00) ^^^ (if b.getLsbD 7 then 0x1B else 0x00) := by
    rw [BitVec.getLsbD_xor]
    cases a.getLsbD 7 <;> cases b.getLsbD 7 <;> rfl
  rw [xtime, xtime, xtime, carry, BitVec.shiftLeft_xor_distrib]
  ac_rfl

theorem xtimes_xor (n : Nat) (a b : Byte) : xtimes n (a ^^^ b) = xtimes n a ^^^ xtimes n b := by
  induction n with
  | zero => rfl
  | succ k ih => rw [xtimes, ih, xtime_xor, xtimes, xtimes]

theorem xtimes_xtime (n : Nat) (a : Byte) : xtimes n (xtime a) = xtime (xtimes n a) := by
  induction n with
  | zero => rfl
  | succ k ih => rw [xtimes, ih, xtimes]

/-- What bit `i` of `b` adds to the product (R103). -/
def partialProduct (a b : Byte) (i : Nat) : Byte := if b.getLsbD i then xtimes i a else 0

theorem partialProduct_xor_left (a b c : Byte) (i : Nat) :
    partialProduct (a ^^^ b) c i = partialProduct a c i ^^^ partialProduct b c i := by
  unfold partialProduct
  split
  · exact xtimes_xor i a b
  · simp

theorem partialProduct_xor_right (a b c : Byte) (i : Nat) :
    partialProduct a (b ^^^ c) i = partialProduct a b i ^^^ partialProduct a c i := by
  unfold partialProduct
  rw [BitVec.getLsbD_xor]
  cases b.getLsbD i <;> cases c.getLsbD i <;> simp

theorem partialProduct_xtime_left (a b : Byte) (i : Nat) :
    partialProduct (xtime a) b i = xtime (partialProduct a b i) := by
  unfold partialProduct
  split
  · exact xtimes_xtime i a
  · rfl

/-- The exclusive-or of `f 0` to `f 7`. -/
def xorOfBits (f : Nat → Byte) : Byte := [0, 1, 2, 3, 4, 5, 6, 7].foldl (fun acc i => acc ^^^ f i) 0

theorem gmul_eq_xorOfBits (a b : Byte) : gmul a b = xorOfBits (partialProduct a b) := by
  have step : (fun (acc : Byte) i => if b.getLsbD i then acc ^^^ xtimes i a else acc) =
      fun acc i => acc ^^^ partialProduct a b i := by
    funext acc i
    unfold partialProduct
    split <;> simp
  rw [gmul, step, xorOfBits]

theorem xorOfBits_xor (f g : Nat → Byte) : xorOfBits (fun i => f i ^^^ g i) = xorOfBits f ^^^ xorOfBits g := by
  simp only [xorOfBits, List.foldl_cons, List.foldl_nil]
  ac_rfl

theorem xorOfBits_xtime (f : Nat → Byte) : xorOfBits (fun i => xtime (f i)) = xtime (xorOfBits f) :=
  List.foldl_hom xtime (init := (0 : Byte)) fun acc i => (xtime_xor acc (f i)).symm

theorem gmul_xor_left (a b c : Byte) : gmul (a ^^^ b) c = gmul a c ^^^ gmul b c := by
  simp only [gmul_eq_xorOfBits, ← xorOfBits_xor, ← partialProduct_xor_left]

theorem gmul_xor_right (a b c : Byte) : gmul a (b ^^^ c) = gmul a b ^^^ gmul a c := by
  simp only [gmul_eq_xorOfBits, ← xorOfBits_xor, ← partialProduct_xor_right]

theorem gmul_xtime_left (a b : Byte) : gmul (xtime a) b = xtime (gmul a b) := by
  simp only [gmul_eq_xorOfBits, ← xorOfBits_xtime, ← partialProduct_xtime_left]

theorem gmul_one_left : ∀ b : Byte, gmul 0x01 b = b := by decide +kernel

theorem gmul_one_right (a : Byte) : gmul a 0x01 = a := by simp [gmul, xtimes]

theorem gmul_zero_right (a : Byte) : gmul a 0x00 = 0x00 := by simp [gmul]

/-- `0x01` spans the bytes: each is the exclusive-or of some `xtimes i 0x01`. -/
theorem byte_induction {P : Byte → Prop} (one : P 0x01) (xor : ∀ a b, P a → P b → P (a ^^^ b))
    (double : ∀ a, P a → P (xtime a)) (b : Byte) : P b := by
  have zero : P 0 := xor _ _ one one
  have powers (i : Nat) : P (xtimes i 0x01) := by
    induction i with
    | zero => exact one
    | succ k ih => exact double _ ih
  have terms (i : Nat) : P (partialProduct 0x01 b i) := by
    unfold partialProduct
    split
    · exact powers i
    · exact zero
  rw [← gmul_one_left b, gmul_eq_xorOfBits]
  exact List.foldlRecOn _ _ zero fun acc h i _ => xor _ _ h (terms i)

theorem gmul_xtime_right (a b : Byte) : gmul a (xtime b) = xtime (gmul a b) := by
  induction a using byte_induction with
  | one => rw [gmul_one_left, gmul_one_left]
  | xor x y hx hy => rw [gmul_xor_left, hx, hy, gmul_xor_left, xtime_xor]
  | double x hx => rw [gmul_xtime_left, hx, gmul_xtime_left]

theorem gmul_comm (a b : Byte) : gmul a b = gmul b a := by
  induction b using byte_induction with
  | one => rw [gmul_one_left, gmul_one_right]
  | xor x y hx hy => rw [gmul_xor_left, gmul_xor_right, hx, hy]
  | double x hx => rw [gmul_xtime_left, gmul_xtime_right, hx]

theorem gmul_zero_left (a : Byte) : gmul 0x00 a = 0x00 := by rw [gmul_comm, gmul_zero_right]

theorem gmul_assoc (a b c : Byte) : gmul a (gmul b c) = gmul (gmul a b) c := by
  induction c using byte_induction with
  | one => rw [gmul_one_right, gmul_one_right]
  | xor x y hx hy => simp only [gmul_xor_right, hx, hy]
  | double x hx => simp only [gmul_xtime_right, hx]

/-! ## R104, R105: the tables, and the inverses they hold -/

/-- The affine map of R104; bit `(i + 8 - k) % 8` of `x` is bit `i` of `x.rotateLeft k`. -/
def affine (x : Byte) : Byte :=
  x ^^^ x.rotateLeft 4 ^^^ x.rotateLeft 3 ^^^ x.rotateLeft 2 ^^^ x.rotateLeft 1 ^^^ 0x63

/-- The affine map undone. -/
def affineInverse (y : Byte) : Byte := y.rotateLeft 1 ^^^ y.rotateLeft 3 ^^^ y.rotateLeft 6 ^^^ 0x05

/-- R104 read backwards: the byte whose affine image `SBOX` holds at `a`. -/
def fieldInverse (a : Byte) : Byte := affineInverse (sbox a)

theorem affine_getLsbD (x : Byte) {i : Nat} (h : i < 8) :
    (affine x).getLsbD i =
      (x.getLsbD i ^^ x.getLsbD ((i + 4) % 8) ^^ x.getLsbD ((i + 5) % 8) ^^ x.getLsbD ((i + 6) % 8) ^^
        x.getLsbD ((i + 7) % 8) ^^ (0x63#8).getLsbD i) := by
  interval_cases i <;> simp [affine]

theorem affine_affineInverse : ∀ y : Byte, affine (affineInverse y) = y := by decide +kernel

theorem sbox_eq_affine (a : Byte) : sbox a = affine (fieldInverse a) := (affine_affineInverse (sbox a)).symm

theorem fieldInverse_zero : fieldInverse 0 = 0 := by decide

theorem gmul_fieldInverse : ∀ a : Byte, a ≠ 0 → gmul a (fieldInverse a) = 0x01 := by decide +kernel

theorem isbox_sbox : ∀ a : Byte, isbox (sbox a) = a := by decide +kernel

theorem sbox_isbox : ∀ a : Byte, sbox (isbox a) = a := by decide +kernel

/-- Settles O11: the tables undo each other, and `SBOX` holds the affine images of the inverses. -/
theorem sboxIsAffineImageOfInverse : Obligations.SboxIsAffineImageOfInverse :=
  ⟨fun a => ⟨isbox_sbox a, sbox_isbox a⟩, fun a =>
    ⟨fieldInverse a, fun ha => ha ▸ fieldInverse_zero, gmul_fieldInverse a,
      fun _ hi => sbox_eq_affine a ▸ affine_getLsbD (fieldInverse a) hi⟩⟩

theorem eq_of_gmul_eq_one {a b c : Byte} (hb : gmul a b = 0x01) (hc : gmul a c = 0x01) : c = b :=
  calc c = gmul c (gmul a b) := by rw [hb, gmul_one_right]
    _ = gmul (gmul a c) b := by rw [gmul_assoc, gmul_comm c a]
    _ = b := by rw [hc, gmul_one_left]

/-- Settles O10: the laws by linearity and `byte_induction`; the inverses are those `SBOX` is made from. -/
theorem fieldArithmeticLaws : Obligations.FieldArithmeticLaws :=
  ⟨gmul_comm, gmul_assoc, gmul_xor_right, gmul_one_right, gmul_zero_right,
    fun a ha => ⟨fieldInverse a, gmul_fieldInverse a ha, fun _ => eq_of_gmul_eq_one (gmul_fieldInverse a ha)⟩⟩

/-! ## R106: the key expansion -/

theorem suffix_expandFrom (n i : Nat) (ws : List KeyWord) : ws <:+ expandFrom n i ws := by
  induction n generalizing i ws with
  | zero => exact List.suffix_rfl
  | succ k ih => exact (List.suffix_cons _ ws).trans (ih (i + 1) _)

theorem reverse_take_of_suffix {α : Type} {ws vs : List α} (h : ws <:+ vs) : vs.reverse.take ws.length = ws.reverse := by
  rw [← List.length_reverse, ← List.prefix_iff_eq_take.mp (List.reverse_prefix.mpr h)]

/-- Word `j` of an expansion that goes on from index `ws.length` is the next one after the words before it. -/
theorem expandFrom_reverse_getElem? {n j : Nat} {ws : List KeyWord} (hlo : ws.length ≤ j) (hhi : j < ws.length + n) :
    (expandFrom n ws.length ws).reverse[j]? =
      some (nextWord j ((expandFrom n ws.length ws).reverse.take j).reverse) := by
  induction n generalizing ws with
  | zero => omega
  | succ k ih =>
    rw [expandFrom]
    obtain rfl | hlt := hlo.eq_or_lt
    · have grown := suffix_expandFrom k (ws.length + 1) (nextWord ws.length ws :: ws)
      have word := List.prefix_iff_getElem?.mp (List.reverse_prefix.mpr grown) ws.length (by simp)
      rw [word, reverse_take_of_suffix ((List.suffix_cons _ ws).trans grown)]
      simp
    · exact ih (ws := nextWord ws.length ws :: ws) hlt (by rw [List.length_cons]; omega)

/-- What `nextWord` reads when the words before `i` are those of a longer expansion: words `i - 1` and `i - 4`. -/
theorem nextWord_take_reverse {i : Nat} {ws : List KeyWord} (hlo : 4 ≤ i) (hhi : i ≤ ws.length) :
    nextWord i (ws.take i).reverse =
      xorWord (ws.getD (i - 4) ⟨0, 0, 0, 0⟩)
        (if i % 4 = 0 then roundWord (i / 4) (ws.getD (i - 1) ⟨0, 0, 0, 0⟩) else ws.getD (i - 1) ⟨0, 0, 0, 0⟩) := by
  have back {k : Nat} (hk : k < i) : (ws.take i).reverse.getD k ⟨0, 0, 0, 0⟩ = ws.getD (i - 1 - k) ⟨0, 0, 0, 0⟩ := by
    have length : (ws.take i).length = i := List.length_take_of_le hhi
    rw [List.getD_eq_getElem?_getD, List.getElem?_reverse (by omega), length, List.getElem?_take_of_lt (by omega),
      ← List.getD_eq_getElem?_getD]
  rw [nextWord, back (k := 0) (by omega), back (k := 3) (by omega), Nat.sub_zero, Nat.sub_sub]

/-- The recurrence of R106. -/
theorem keyExpansion_getElem? (key : List Byte) {i : Nat} (hlo : 4 ≤ i) (hhi : i < 44) :
    (keyExpansion key)[i]? =
      some (xorWord ((keyExpansion key).getD (i - 4) ⟨0, 0, 0, 0⟩)
        (if i % 4 = 0 then roundWord (i / 4) ((keyExpansion key).getD (i - 1) ⟨0, 0, 0, 0⟩)
          else (keyExpansion key).getD (i - 1) ⟨0, 0, 0, 0⟩)) := by
  rw [← nextWord_take_reverse hlo (by rw [keyExpansion_length]; omega)]
  exact expandFrom_reverse_getElem? (n := 40) (ws := [_, _, _, _]) hlo hhi

theorem keyExpansion_take_four (key : List Byte) :
    (keyExpansion key).take 4 = [keyWord key 0, keyWord key 1, keyWord key 2, keyWord key 3] :=
  reverse_take_of_suffix (suffix_expandFrom 40 4 [keyWord key 3, keyWord key 2, keyWord key 1, keyWord key 0])

theorem roundKey_zero {key : List Byte} (h : key.length = 16) : roundKey (keyExpansion key) 0 = key := by
  rw [roundKey, Nat.mul_zero, List.drop_zero, keyExpansion_take_four]
  match key, h with
  | [_, _, _, _, _, _, _, _, _, _, _, _, _, _, _, _], _ => rfl

/-- The ten constants `RCON` (R106). -/
theorem rcon_eq_getD : ∀ j < 11, 1 ≤ j →
    rcon j = [0x01, 0x02, 0x04, 0x08, 0x10, 0x20, 0x40, 0x80, 0x1B, 0x36].getD (j - 1) 0 := by decide

theorem flatMap_word_drop_take {ws : List KeyWord} {c : Nat} (h : c < ws.length) :
    ((ws.flatMap fun w => [w.b0, w.b1, w.b2, w.b3]).drop (4 * c)).take 4 =
      (let w := ws.getD c ⟨0, 0, 0, 0⟩; [w.b0, w.b1, w.b2, w.b3]) := by
  induction ws generalizing c with
  | nil => simp at h
  | cons w rest ih =>
    cases c with
    | zero => rfl
    | succ c => exact ih (c := c) (by simpa using h)

/-- Settles O12: the first four words are the key, the others follow `nextWord`, and a round key is four of them. -/
theorem keyExpansionRecurrence : Obligations.KeyExpansionRecurrence := by
  refine fun key hkey => ⟨keyExpansion_length key, roundKey_zero hkey, fun i hlo hhi => ?_, fun n c hn hc => ?_⟩
  · dsimp only
    rw [keyExpansion_getElem? key hlo hhi]
    constructor
    · intro h
      rw [if_pos h, roundWord, rcon_eq_getD _ (by omega) (by omega)]
      simp [xorWord, subWord, rotWord]
    · intro h
      rw [if_neg h, xorWord]
  · have length : (((keyExpansion key).drop (4 * n)).take 4).length = 4 := by
      rw [List.length_take, List.length_drop, keyExpansion_length]; omega
    rw [roundKey, flatMap_word_drop_take (by omega), List.getD_eq_getElem?_getD, List.getElem?_take_of_lt hc,
      List.getElem?_drop, ← List.getD_eq_getElem?_getD]

/-! ## R107 to R110: the round operations, byte by byte -/

theorem addRoundKey_getD {s k : List Byte} {i : Nat} (hs : i < s.length) (hk : i < k.length) :
    (addRoundKey s k).getD i 0 = s.getD i 0 ^^^ k.getD i 0 := by
  simp [addRoundKey, List.getD_eq_getElem?_getD, hs, hk]

/-- R108 read forwards: the byte at row `r`, column `c` moves `r` columns on. -/
theorem shiftSource_getElem? : ∀ r < 4, ∀ c < 4, shiftSource[r + 4 * ((c + r) % 4)]? = some (r + 4 * c) := by decide

theorem invShiftRows_getD (s : List Byte) {r c : Nat} (hr : r < 4) (hc : c < 4) :
    (invShiftRows s).getD (r + 4 * ((c + r) % 4)) 0 = s.getD (r + 4 * c) 0 := by
  rw [invShiftRows, List.getD_eq_getElem?_getD, List.getElem?_map, shiftSource_getElem? r hr c hc]
  rfl

theorem invSubBytes_getD {s : List Byte} {i : Nat} (h : i < s.length) :
    (invSubBytes s).getD i 0 = isbox (s.getD i 0) := by
  simp [invSubBytes, List.getD_eq_getElem?_getD, h]

theorem invMixColumn_length (a0 a1 a2 a3 : Byte) : (invMixColumn a0 a1 a2 a3).length = 4 := rfl

/-- Column `c` of `InvMixColumns` is that of the block (R110). -/
theorem invMixColumns_getD {s : List Byte} {r c : Nat} (hr : r < 4) (hc : 4 * c + 3 < s.length) :
    (invMixColumns s).getD (r + 4 * c) 0 =
      (invMixColumn (s.getD (4 * c) 0) (s.getD (1 + 4 * c) 0) (s.getD (2 + 4 * c) 0) (s.getD (3 + 4 * c) 0)).getD r 0 := by
  induction s using invMixColumns.induct generalizing c with
  | case1 a0 a1 a2 a3 rest ih =>
    rw [invMixColumns]
    cases c with
    | zero => exact List.getD_append _ _ _ _ hr
    | succ c =>
      rw [List.getD_append_right _ _ _ _ (by rw [invMixColumn_length]; omega), invMixColumn_length,
        show r + 4 * (c + 1) - 4 = r + 4 * c by omega]
      exact ih (by simp only [List.length_cons] at hc; omega)
  | case2 s h =>
    match s, hc with
    | a0 :: a1 :: a2 :: a3 :: rest, _ => exact absurd rfl (h a0 a1 a2 a3 rest)

/-- The rows of the matrix of R110. -/
theorem invMixColumn_getD (a0 a1 a2 a3 : Byte) {r : Nat} (hr : r < 4) :
    (invMixColumn a0 a1 a2 a3).getD r 0 =
      gmul ([0x0E, 0x09, 0x0D, 0x0B].getD r 0) a0 ^^^ gmul ([0x0B, 0x0E, 0x09, 0x0D].getD r 0) a1 ^^^
      gmul ([0x0D, 0x0B, 0x0E, 0x09].getD r 0) a2 ^^^ gmul ([0x09, 0x0D, 0x0B, 0x0E].getD r 0) a3 := by
  interval_cases r <;> rfl

/-- Settles O13: each operation by its byte equation. -/
theorem roundOperationsByStateByte : Obligations.RoundOperationsByStateByte := by
  intro s k hs hk r c hr hc
  exact ⟨addRoundKey_getD (by omega) (by omega), invShiftRows_getD s hr hc, invSubBytes_getD (by omega),
    (invMixColumns_getD hr (by omega)).trans (invMixColumn_getD _ _ _ _ hr)⟩

/-! ## R111: the inverse cipher is injective

Each round operation maps blocks to blocks, different ones to different ones, and so does whatever is composed of them. -/

/-- `f` maps blocks of 16 bytes (R102) to such blocks, and different ones to different ones. -/
structure BlockInjection (f : List Byte → List Byte) : Prop where
  length : ∀ s, s.length = 16 → (f s).length = 16
  injective : ∀ s t, s.length = 16 → t.length = 16 → f s = f t → s = t

theorem BlockInjection.comp {f g : List Byte → List Byte} (hg : BlockInjection g) (hf : BlockInjection f) :
    BlockInjection fun s => g (f s) where
  length s hs := hg.length _ (hf.length s hs)
  injective s t hs ht h := hf.injective s t hs ht (hg.injective _ _ (hf.length s hs) (hf.length t ht) h)

/-- Blocks that agree at each row and column are one block (R102). -/
theorem block_ext {s t : List Byte} (hs : s.length = 16) (ht : t.length = 16)
    (h : ∀ r < 4, ∀ c < 4, s.getD (r + 4 * c) 0 = t.getD (r + 4 * c) 0) : s = t := by
  refine List.ext_getElem (hs.trans ht.symm) fun i hi hi' => ?_
  have byte := h (i % 4) (by omega) (i / 4) (by omega)
  rwa [Nat.mod_add_div, List.getD_eq_getElem _ _ hi, List.getD_eq_getElem _ _ hi'] at byte

theorem addRoundKey_blockInjection {k : List Byte} (hk : k.length = 16) : BlockInjection (addRoundKey · k) where
  length s hs := by rw [addRoundKey_length, hs, hk, min_self]
  injective s t hs ht h := block_ext hs ht fun r hr c hc => by
    have byte := congrArg (·.getD (r + 4 * c) 0) h
    have bound : r + 4 * c < 16 := by omega
    simpa only [addRoundKey_getD, hs, ht, hk, bound, BitVec.xor_left_inj] using byte

theorem invShiftRows_blockInjection : BlockInjection invShiftRows where
  length s _ := invShiftRows_length s
  injective s t hs ht h := block_ext hs ht fun r hr c hc => by
    rw [← invShiftRows_getD s hr hc, h, invShiftRows_getD t hr hc]

theorem invSubBytes_blockInjection : BlockInjection invSubBytes where
  length s hs := (invSubBytes_length s).trans hs
  injective _ _ _ _ h := List.map_injective_iff.mpr (Function.LeftInverse.injective sbox_isbox) h

/-! A column is recovered from its image row by row, with the matrix whose first row is `02 03 01 01`; the other rows are
rotations, and `invMixColumn` commutes with rotating the column. -/

/-- The first row of the matrix inverse to that of R110. -/
def mixFirstRow (y : List Byte) : Byte :=
  gmul 0x02 (y.getD 0 0) ^^^ gmul 0x03 (y.getD 1 0) ^^^ gmul 0x01 (y.getD 2 0) ^^^ gmul 0x01 (y.getD 3 0)

theorem mixFirstRow_gmul (p q u v a : Byte) :
    mixFirstRow [gmul p a, gmul q a, gmul u a, gmul v a] = gmul (mixFirstRow [p, q, u, v]) a := by
  simp only [mixFirstRow, List.getD_cons_zero, List.getD_cons_succ, gmul_assoc, gmul_xor_left]

theorem mixFirstRow_invMixColumn (a0 a1 a2 a3 : Byte) : mixFirstRow (invMixColumn a0 a1 a2 a3) = a0 :=
  calc mixFirstRow (invMixColumn a0 a1 a2 a3)
      = mixFirstRow [gmul 0x0E a0, gmul 0x09 a0, gmul 0x0D a0, gmul 0x0B a0] ^^^
        mixFirstRow [gmul 0x0B a1, gmul 0x0E a1, gmul 0x09 a1, gmul 0x0D a1] ^^^
        mixFirstRow [gmul 0x0D a2, gmul 0x0B a2, gmul 0x0E a2, gmul 0x09 a2] ^^^
        mixFirstRow [gmul 0x09 a3, gmul 0x0D a3, gmul 0x0B a3, gmul 0x0E a3] := by
        simp only [mixFirstRow, invMixColumn, List.getD_cons_zero, List.getD_cons_succ, gmul_xor_right]
        ac_rfl
    _ = gmul 0x01 a0 ^^^ gmul 0x00 a1 ^^^ gmul 0x00 a2 ^^^ gmul 0x00 a3 := by
        simp only [mixFirstRow_gmul]
        rfl
    _ = a0 := by
        rw [gmul_one_left, gmul_zero_left, gmul_zero_left, gmul_zero_left]
        simp

theorem invMixColumn_rotate (a0 a1 a2 a3 : Byte) :
    invMixColumn a1 a2 a3 a0 = (invMixColumn a0 a1 a2 a3).rotate 1 := by
  simp only [invMixColumn, List.rotate_cons_succ, List.rotate_zero, List.cons_append, List.nil_append, List.cons.injEq]
  refine ⟨?_, ?_, ?_, ?_, trivial⟩ <;> ac_rfl

section
variable {a0 a1 a2 a3 b0 b1 b2 b3 : Byte}

theorem invMixColumn_injective_first (h : invMixColumn a0 a1 a2 a3 = invMixColumn b0 b1 b2 b3) : a0 = b0 := by
  rw [← mixFirstRow_invMixColumn a0 a1 a2 a3, h, mixFirstRow_invMixColumn]

theorem invMixColumn_rotate_congr (h : invMixColumn a0 a1 a2 a3 = invMixColumn b0 b1 b2 b3) :
    invMixColumn a1 a2 a3 a0 = invMixColumn b1 b2 b3 b0 := by
  rw [invMixColumn_rotate, h, ← invMixColumn_rotate]

theorem invMixColumn_injective (h : invMixColumn a0 a1 a2 a3 = invMixColumn b0 b1 b2 b3) :
    a0 = b0 ∧ a1 = b1 ∧ a2 = b2 ∧ a3 = b3 := by
  have once := invMixColumn_rotate_congr h
  have twice := invMixColumn_rotate_congr once
  have thrice := invMixColumn_rotate_congr twice
  exact ⟨invMixColumn_injective_first h, invMixColumn_injective_first once, invMixColumn_injective_first twice,
    invMixColumn_injective_first thrice⟩

end

theorem invMixColumns_length {s : List Byte} (h : s.length = 16) : (invMixColumns s).length = 16 := by
  match s, h with
  | [_, _, _, _, _, _, _, _, _, _, _, _, _, _, _, _], _ => rfl

theorem invMixColumns_blockInjection : BlockInjection invMixColumns where
  length _ hs := invMixColumns_length hs
  injective s t hs ht h := block_ext hs ht fun r hr c hc => by
    have column : invMixColumn (s.getD (4 * c) 0) (s.getD (1 + 4 * c) 0) (s.getD (2 + 4 * c) 0) (s.getD (3 + 4 * c) 0) =
        invMixColumn (t.getD (4 * c) 0) (t.getD (1 + 4 * c) 0) (t.getD (2 + 4 * c) 0) (t.getD (3 + 4 * c) 0) := by
      refine List.ext_getElem rfl fun i hi hi' => ?_
      rw [← List.getD_eq_getElem _ 0 hi, ← List.getD_eq_getElem _ 0 hi', ← invMixColumns_getD hi (by omega), h,
        invMixColumns_getD hi (by omega)]
    obtain ⟨h0, h1, h2, h3⟩ := invMixColumn_injective column
    interval_cases r
    · rwa [Nat.zero_add]
    · exact h1
    · exact h2
    · exact h3

/-- The last step of R111, and the part of a round before `InvMixColumns`. -/
theorem lastStep_blockInjection {k : List Byte} (hk : k.length = 16) :
    BlockInjection fun s => addRoundKey (invSubBytes (invShiftRows s)) k :=
  (addRoundKey_blockInjection hk).comp (invSubBytes_blockInjection.comp invShiftRows_blockInjection)

theorem invRound_blockInjection {k : List Byte} (hk : k.length = 16) : BlockInjection (invRound k) :=
  invMixColumns_blockInjection.comp (lastStep_blockInjection hk)

theorem invRounds_blockInjection (key : List Byte) {n : Nat} (hn : n ≤ 10) :
    BlockInjection (invRounds (keyExpansion key) n) := by
  induction n with
  | zero => exact ⟨fun _ hs => hs, fun _ _ _ _ h => h⟩
  | succ k ih => exact (ih (by omega)).comp (invRound_blockInjection (roundKey_length key (k + 1) hn))

theorem invCipher_blockInjection (key : List Byte) : BlockInjection (invCipher key) :=
  (lastStep_blockInjection (roundKey_length key 0 (by decide))).comp
    ((invRounds_blockInjection key (by decide)).comp (addRoundKey_blockInjection (roundKey_length key 10 le_rfl)))

/-- Settles O14: the inverse cipher is composed of injective operations on blocks. -/
theorem inverseCipherIsInjective : Obligations.InverseCipherIsInjective :=
  fun key c d _ hc hd => (invCipher_blockInjection key).injective c d hc hd

/-! ## R111: the order of the rounds, and the known answers -/

theorem invRounds_eq_foldl (ws : List KeyWord) (n : Nat) (s : List Byte) :
    invRounds ws n s = ((List.range' 1 n).reverse).foldl (fun t m => invRound (roundKey ws m) t) s := by
  induction n generalizing s with
  | zero => rfl
  | succ k ih => rw [invRounds, ih, List.range'_concat, List.reverse_concat, List.foldl_cons, Nat.one_mul, Nat.add_comm]

/-- Settles O60: the order by `invRounds_eq_foldl`, the known answers by computing them. -/
theorem inverseCipherIsItsRoundsInOrder : Obligations.InverseCipherIsItsRoundsInOrder := by
  refine ⟨fun key ct => ?_, by decide +kernel, by decide +kernel⟩
  dsimp only
  rw [invCipher, invRounds_eq_foldl]
  rfl

/-! ## R100: `decrypt_block` -/

/-- Settles O15: the two length tests in their order; `invCipher_length` for the result. -/
theorem decryptBlockContract : Obligations.DecryptBlockContract := fun key ct =>
  ⟨fun hkey => if_pos hkey, fun hkey hct => (if_neg (not_not.mpr hkey)).trans (if_pos hct),
    fun hkey hct => ⟨(if_neg (not_not.mpr hkey)).trans (if_neg (not_not.mpr hct)), invCipher_length key ct⟩⟩

/-! ## R112: `AESDEC` -/

/-- The end of `AESDEC` (R112): `KEY` and `CT` are those before START. -/
theorem aesdec_end (r : Regs) :
    endPhase .finish (phaseAes (started .aesdec r)) =
      { r with
        cmd := 0x05, phase := .idle, done := true, ok := true, err := none,
        pt := store (zeros 16) (invCipher r.key.toList r.ct.toList) } := by
  rw [phaseAes_eq]; rfl

/-- Settles O27: the two steps are START and `P_AES`, whose block fills `PT`. -/
theorem aesdecDecryptsOneBlock : Obligations.AesdecDecryptsOneBlock := by
  intro s hp
  refine ⟨_, _, exec_started hp, exec_firstPhase .aesdec s s.toRegs, ?_⟩
  rw [aesdec_end]
  refine ⟨rfl, ?_⟩
  rw [decryptBlock_registers]
  exact congrArg Except.ok (store_toList_of_length _ _ (invCipher_length _ _)).symm

end Sys2Proof.Machine

/-! The token pipeline (43_otp_token.md): the phases of `OTP` (R121 to R128), what every step keeps of them, the
function `decode_token` (R120, R133), and `OTP` from START to its end (R131, R132). -/

namespace Sys2Proof.Machine

/-! ## One phase of a command, and the bodies of `OTP`'s phases -/

@[simp] theorem endPhase_goto (p : Phase) (r : Regs) : endPhase (.goto p) (r, none) = { r with phase := p } := rfl

theorem TableRow.phase_ne_idle {i : Instr} {p : Phase} {body : Regs → Regs × Option ErrKind} {n : Next}
    (row : TableRow i p body n) : p ≠ .idle := by
  cases row <;> decide

/-- A running command at the phase of a row runs that row's body (R144). -/
theorem TableRow.exec {i : Instr} {p : Phase} {body : Regs → Regs × Option ErrKind} {n : Next}
    (row : TableRow i p body n) {s : State} (hp : s.phase = p) (hc : s.cmd = encode i) :
    exec i s = .next (s.withRegs (endPhase n (body s.toRegs))) :=
  exec_running i s _ (hp ▸ row.phase_ne_idle) hc (hp ▸ row.chainOf_eq)

section
variable {r : Regs}

theorem phaseMhdec_error {e : ErrKind} (h : modhexDecode (tokenText r) = .error e) : phaseMhdec r = (r, some e) := by
  simp only [phaseMhdec, h]

theorem phaseMhdec_ok {bs : List Byte} (h : modhexDecode (tokenText r) = .ok bs) :
    phaseMhdec r = ({ r with buf := store r.buf bs, buflen := BitVec.ofNat 5 bs.length }, none) := by
  simp only [phaseMhdec, h]

theorem phaseLen_fail (h : r.buflen.toNat ≠ Config.tokenBytes) : phaseLen r = (r, some .truncatedToken) := by
  rw [phaseLen, if_pos h]

theorem phaseLen_pass (h : r.buflen.toNat = Config.tokenBytes) : phaseLen r = (r, none) := by
  rw [phaseLen, if_neg (not_not.mpr h)]

theorem phasePrefix_fail (h : slice r.buf 0 6 ≠ r.pid.toList) : phasePrefix r = (r, some .unknownDevice) := by
  rw [phasePrefix, if_pos h]

theorem phasePrefix_pass (h : slice r.buf 0 6 = r.pid.toList) : phasePrefix r = (r, none) := by
  rw [phasePrefix, if_neg (not_not.mpr h)]

theorem phaseUid_fail (h : slice r.pt 0 6 ≠ r.uid.toList) : phaseUid r = (r, some .identityMismatch) := by
  rw [phaseUid, if_pos h]

theorem phaseUid_pass (h : slice r.pt 0 6 = r.uid.toList) : phaseUid r = (r, none) := by
  rw [phaseUid, if_neg (not_not.mpr h)]

theorem phaseCrc_fail (h : crc16 r.pt.toList ≠ Config.crcResidue) :
    phaseCrc r = ({ r with crc := crc16 r.pt.toList }, some .integrityCheckFailed) := by
  rw [phaseCrc, if_pos h]

theorem phaseCrc_pass (h : crc16 r.pt.toList = Config.crcResidue) :
    phaseCrc r = ({ r with crc := crc16 r.pt.toList }, none) := by
  rw [phaseCrc, if_neg (not_not.mpr h)]

end

/-! ## R121 to R128: the phases of `OTP` -/

/-- Settles O28: the two answers of `modhex_decode` decide phase `P_MHDEC`. -/
theorem otpMhdecPhase : Obligations.OtpMhdecPhase := by
  intro s hp hc _
  rw [TableRow.otpMhdec.exec hp hc]
  refine ⟨fun h => ?_, fun bs h => ?_⟩
  · rw [phaseMhdec_error h]; rfl
  · rw [phaseMhdec_ok h]; rfl

/-- Settles O29: the length decides phase `P_LEN`; `CT` and `PT` are cleared before steps 3 and 5. -/
theorem otpLenPhase : Obligations.OtpLenPhase := by
  intro s hp hc
  rw [TableRow.otpLen.exec hp hc]
  refine ⟨fun h => ⟨?_, fun inv => ⟨inv.before_split hc (by simp [hp]), inv.before_aes hc (by simp [hp])⟩⟩, fun h => ?_⟩
  · rw [phaseLen_fail h]; rfl
  · rw [phaseLen_pass h]; rfl

theorem cell_slice {n : Nat} (v : Vector Byte n) (a : Nat) {len i : Nat} (h : i < len) :
    (slice v a len).getD i 0 = cell v (a + i) := by
  simp [slice, cell, List.getD_eq_getElem?_getD, h]

/-- Settles O30: `CT` is filled with 16 bytes from `BUF[6]` on. -/
theorem otpSplitPhase : Obligations.OtpSplitPhase := by
  intro s hp hc
  refine ⟨_, TableRow.otpSplit.exec hp hc, rfl, fun i hi => ?_⟩
  have length : (slice s.buf 6 16).length = 16 := slice_length s.buf 6 16
  calc cell (store s.ct (slice s.buf 6 16)) i
      = (slice s.buf 6 16).getD i 0 := by rw [cell_store _ _ _ hi, if_pos (by omega)]
    _ = cell s.buf (6 + i) := cell_slice s.buf 6 hi

/-- The comparison of R124 and R126: a register equals the first bytes of a longer one exactly byte by byte. -/
theorem slice_zero_eq_toList_iff {m n : Nat} (v : Vector Byte m) (w : Vector Byte n) (h : n ≤ m) :
    slice v 0 n = w.toList ↔ ∀ i, i < n → cell v i = cell w i := by
  have length : (slice v 0 n).length = n := by rw [slice_length]; omega
  refine ⟨fun heq i hi => by rw [← slice_zero_getD v hi, heq, cell], fun hall => ?_⟩
  refine List.ext_getElem (by simp [length]) fun i hi hi' => ?_
  rw [← List.getD_eq_getElem _ 0, ← List.getD_eq_getElem _ 0, slice_zero_getD v (length ▸ hi)]
  exact hall i (length ▸ hi)

/-- Settles O31: `slice_zero_eq_toList_iff` on `BUF` and `PID`; `PT` is cleared before step 5. -/
theorem otpPrefixPhase : Obligations.OtpPrefixPhase := by
  intro s hp hc
  have compare := slice_zero_eq_toList_iff s.buf s.pid (by omega)
  rw [TableRow.otpPrefix.exec hp hc]
  refine ⟨fun ⟨i, hi, hne⟩ => ⟨?_, fun inv => inv.before_aes hc (by simp [hp])⟩, fun hall => ?_⟩
  · rw [phasePrefix_fail fun heq => hne (compare.mp heq i hi)]; rfl
  · rw [phasePrefix_pass (compare.mpr hall)]; rfl

/-- Phase `P_AES` leaves in `PT` what `decrypt_block` answers (R125). -/
theorem decryptBlock_eq_store (k c p : Vector Byte 16) :
    decryptBlock k.toList c.toList = .ok (store p (invCipher k.toList c.toList)).toList := by
  rw [decryptBlock_registers, store_toList_of_length _ _ (invCipher_length _ _)]

/-- Settles O32: `phaseAes_eq`, the block being the one `decrypt_block` answers. -/
theorem otpAesPhase : Obligations.OtpAesPhase := by
  intro s hp hc
  refine ⟨_, TableRow.otpAes.exec hp hc, ?_⟩
  rw [phaseAes_eq]
  exact ⟨rfl, decryptBlock_eq_store s.key s.ct s.pt⟩

/-- Settles O33: `slice_zero_eq_toList_iff` on `PT` and `UID`; `CRC` is cleared before step 7. -/
theorem otpUidPhase : Obligations.OtpUidPhase := by
  intro s hp hc
  have compare := slice_zero_eq_toList_iff s.pt s.uid (by omega)
  rw [TableRow.otpUid.exec hp hc]
  refine ⟨fun ⟨i, hi, hne⟩ => ⟨?_, fun inv => inv.before_crc hc (by simp [hp]) (by simp [hp])⟩, fun hall => ?_⟩
  · rw [phaseUid_fail fun heq => hne (compare.mp heq i hi)]; rfl
  · rw [phaseUid_pass (compare.mpr hall)]; rfl

/-- Settles O34: the CRC of `PT` decides phase `P_CRC` and is written in both outcomes. -/
theorem otpCrcPhase : Obligations.OtpCrcPhase := by
  intro s hp hc
  rw [TableRow.otpCrc.exec hp hc]
  refine ⟨fun h => ?_, fun h => ?_⟩
  · rw [phaseCrc_fail h]; rfl
  · rw [phaseCrc_pass h, h]; rfl

theorem toNat_le16 (b0 b1 : Byte) : (le16 b0 b1).toNat = b1.toNat * 256 + b0.toNat := by
  have append : le16 b0 b1 = b1 ++ b0 := by
    rw [le16, ← BitVec.setWidth_append_eq_shiftLeft_setWidth_or, BitVec.setWidth_eq]
  rw [append, BitVec.toNat_append, ← Nat.shiftLeft_add_eq_or_of_lt b0.isLt, Nat.shiftLeft_eq]

theorem toNat_timestampOf (p8 p9 p10 : Byte) :
    (timestampOf p8 p9 p10).toNat = p10.toNat * 65536 + p9.toNat * 256 + p8.toNat := by
  have low : (le16 p8 p9).toNat < 2 ^ 16 := (le16 p8 p9).isLt
  have high : (p10.setWidth 32 <<< 16).toNat = p10.toNat <<< 16 := by
    rw [BitVec.toNat_shiftLeft, BitVec.toNat_setWidth, Nat.shiftLeft_eq, Nat.shiftLeft_eq]
    omega
  rw [timestampOf, BitVec.toNat_or, high, BitVec.toNat_setWidth, Nat.mod_eq_of_lt (by omega),
    ← Nat.shiftLeft_add_eq_or_of_lt low, Nat.shiftLeft_eq, toNat_le16]
  omega

/-- Settles O35: the fields of `PT` as numbers are `toNat_le16` and `toNat_timestampOf`. -/
theorem otpParsePhase : Obligations.OtpParsePhase := by
  intro s hp hc
  exact ⟨_, TableRow.otpParse.exec hp hc, rfl, toNat_le16 _ _, rfl, toNat_timestampOf _ _ _⟩

/-! ## R132: every step keeps `PipelineInv` -/

/-- Every clause of the invariant is about `OTP`. -/
theorem pipelineInv_of_cmd_ne {r : Regs} (h : r.cmd ≠ 0x01) : PipelineInv r := by
  constructor <;> exact fun hc => absurd hc h

/-- Of an idle block only the two clauses about an end say something. -/
theorem pipelineInv_of_idle {r : Regs} (hp : r.phase = .idle)
    (success : r.cmd = 0x01 → r.done = true → r.ok = true →
      r.crc = Config.crcResidue ∧ crc16 r.pt.toList = Config.crcResidue ∧
      r.uc = le16 (cell r.pt 6) (cell r.pt 7) ∧ r.sc = cell r.pt 11 ∧
      r.ts = timestampOf (cell r.pt 8) (cell r.pt 9) (cell r.pt 10))
    (failure : r.cmd = 0x01 → r.done = true → r.ok = false → r.uc = 0 ∧ r.sc = 0 ∧ r.ts = 0) : PipelineInv r := by
  constructor
  case success => exact success
  case failure => exact failure
  all_goals simp [hp]

/-- A failure shows no result (R130). -/
theorem pipelineInv_fail (e : ErrKind) {r : Regs} (h : r.uc = 0 ∧ r.sc = 0 ∧ r.ts = 0) : PipelineInv (fail e r) :=
  pipelineInv_of_idle rfl (fun _ _ => nofun) fun _ _ _ => h

/-! The phases of a running `OTP`, one lemma each: a failure shows no result; otherwise the facts of the phase's clauses
go on to the next one, and the phase adds its own. -/

section
variable {r : Regs} (h : PipelineInv r) (hc : r.cmd = 0x01) (hdone : r.done = false)
include h hc hdone

theorem PipelineInv.phaseMhdec (hp : r.phase = .pMhdec) : PipelineInv (endPhase (.goto .pLen) (phaseMhdec r)) := by
  obtain he | ⟨bs, -, he⟩ := phaseMhdec_cases r <;> rw [he]
  · exact pipelineInv_fail _ (h.running_result hc (by simp [hp]))
  · constructor <;> simp [h.running_result, h.before_split, h.before_aes, h.before_crc, hc, hp, hdone]

theorem PipelineInv.phaseLen (hp : r.phase = .pLen) : PipelineInv (endPhase (.goto .pSplit) (phaseLen r)) := by
  by_cases hlen : r.buflen.toNat = Config.tokenBytes
  · have passed : r.buflen = 22 := BitVec.eq_of_toNat_eq hlen
    rw [phaseLen_pass hlen]
    constructor <;> simp [h.running_result, h.before_split, h.before_aes, h.before_crc, hc, hp, hdone, passed]
  · rw [phaseLen_fail hlen]
    exact pipelineInv_fail _ (h.running_result hc (by simp [hp]))

theorem PipelineInv.phaseSplit (hp : r.phase = .pSplit) : PipelineInv (endPhase (.goto .pPrefix) (phaseSplit r)) := by
  have written := store_toList_of_length r.ct (slice r.buf 6 16) (slice_length r.buf 6 16)
  constructor <;> simp [Machine.phaseSplit, h.running_result, h.after_len, h.before_aes, h.before_crc, hc, hp, hdone,
    -store_toList, written]

theorem PipelineInv.phasePrefix (hp : r.phase = .pPrefix) : PipelineInv (endPhase (.goto .pAes) (phasePrefix r)) := by
  by_cases hpre : slice r.buf 0 6 = r.pid.toList
  · rw [phasePrefix_pass hpre]
    constructor <;> simp [h.running_result, h.after_len, h.after_split, h.before_aes, h.before_crc, hc, hp, hdone, hpre]
  · rw [phasePrefix_fail hpre]
    exact pipelineInv_fail _ (h.running_result hc (by simp [hp]))

theorem PipelineInv.phaseAes (hp : r.phase = .pAes) : PipelineInv (endPhase (.goto .pUid) (phaseAes r)) := by
  have ct := h.after_split hc (by simp [hp])
  have written := decryptBlock_eq_store r.key r.ct r.pt
  rw [phaseAes_eq]
  constructor <;> simp [h.running_result, h.after_len, ← ct, h.after_prefix, h.before_crc, hc, hp, hdone,
    -store_toList, written]

theorem PipelineInv.phaseUid (hp : r.phase = .pUid) : PipelineInv (endPhase (.goto .pCrc) (phaseUid r)) := by
  by_cases huid : slice r.pt 0 6 = r.uid.toList
  · have ct := h.after_split hc (by simp [hp])
    rw [phaseUid_pass huid]
    constructor <;> simp [h.running_result, h.after_len, ← ct, h.after_prefix, h.after_aes, h.before_crc, hc, hp, hdone,
      huid]
  · rw [phaseUid_fail huid]
    exact pipelineInv_fail _ (h.running_result hc (by simp [hp]))

theorem PipelineInv.phaseCrc (hp : r.phase = .pCrc) : PipelineInv (endPhase (.goto .pParse) (phaseCrc r)) := by
  by_cases hcrc : crc16 r.pt.toList = Config.crcResidue
  · have ct := h.after_split hc (by simp [hp])
    rw [phaseCrc_pass hcrc]
    constructor <;> simp [h.running_result, h.after_len, ← ct, h.after_prefix, h.after_aes, h.after_uid, hc, hp, hdone,
      hcrc]
  · rw [phaseCrc_fail hcrc]
    exact pipelineInv_fail _ (h.running_result hc (by simp [hp]))

omit hdone in
theorem PipelineInv.phaseParse (hp : r.phase = .pParse) : PipelineInv (endPhase .finish (phaseParse r)) := by
  obtain ⟨hcrc, hcrc16⟩ := h.after_crc hc hp
  exact pipelineInv_of_idle rfl (fun _ _ _ => ⟨hcrc, hcrc16, rfl, rfl, rfl⟩) fun _ _ => nofun

end

/-- Every phase of a running command keeps the pipeline's invariant (R144). -/
theorem TableRow.pipelineInv {i : Instr} {p : Phase} {body : Regs → Regs × Option ErrKind} {n : Next}
    (row : TableRow i p body n) {r : Regs} (h : PipelineInv r) (hdone : r.done = false) (hp : r.phase = p)
    (hc : r.cmd = encode i) : PipelineInv (endPhase n (body r)) := by
  have other (hi : encode i ≠ 0x01) : PipelineInv (endPhase n (body r)) := by
    refine pipelineInv_of_cmd_ne ?_
    have cmd := (row.sameFlags r).cmd.trans hc
    obtain ⟨e, -, heq⟩ | ⟨-, p', -, heq⟩ | ⟨-, -, heq⟩ := endPhase_cases n (body r) <;> rw [heq] <;>
      exact fun h1 => hi (cmd.symm.trans h1)
  cases row
  case otpMhdec => exact h.phaseMhdec hc hdone hp
  case otpLen => exact h.phaseLen hc hdone hp
  case otpSplit => exact h.phaseSplit hc hdone hp
  case otpPrefix => exact h.phasePrefix hc hdone hp
  case otpAes => exact h.phaseAes hc hdone hp
  case otpUid => exact h.phaseUid hc hdone hp
  case otpCrc => exact h.phaseCrc hc hdone hp
  case otpParse => exact h.phaseParse hc hp
  case mhdec | mhenc | crc16 | aesdec => exact other (by decide)

/-- A byte stored in an idle block reaches no register of an end state's clauses (R41, R141). -/
theorem PipelineInv.writeByte {r : Regs} (h : PipelineInv r) (hp : r.phase = .idle) (a b : Byte) :
    PipelineInv (writeByte r a b) := by
  obtain ⟨flags, results⟩ := writeByte_same r a b
  refine pipelineInv_of_idle (flags.phase.trans hp) ?_ ?_ <;>
    rw [flags.cmd, flags.done, flags.ok, results.uc, results.sc, results.ts]
  · rw [results.crc, results.pt]; exact h.success
  · exact h.failure

/-- START of `OTP` clears all that the clauses of its first phase name; no clause is about another command (R142). -/
theorem pipelineInv_start (i : Instr) (r : Regs) : PipelineInv (start (encode i) (firstPhase i) (clearOf i) r) := by
  cases i
  case otp => constructor <;> simp [firstPhase, clearOf]
  case mhdec | mhenc | crc16 | aesdec => exact pipelineInv_of_cmd_ne (by simp; decide)

/-- Every way the registers can come about after a step keeps the pipeline's invariant. -/
theorem RegsAfter.pipelineInv {r q : Regs} (after : RegsAfter r q) (control : ControlInv r) (h : PipelineInv r) :
    PipelineInv q := by
  cases after with
  | same => exact h
  | rst => exact pipelineInv_reset
  | stored a b hp _ => exact h.writeByte hp a b
  | illegal w e _ he =>
    refine pipelineInv_of_cmd_ne ?_
    rintro rfl
    cases he
  | started i _ => exact pipelineInv_start i r
  | phase i f hp hc hf =>
    obtain ⟨body, n, row, rfl⟩ := chainOf_eq_some i r.phase f hf
    obtain ⟨hdone, -⟩ := control.busy_clear hp
    exact row.pipelineInv h hdone rfl hc

/-- Settles O56: a step's registers come about in one of the six ways of `RegsAfter`, each of which keeps the pipeline's
invariant; `ControlInv` says that `DONE` is 0 while a command runs. -/
theorem everyStepKeepsPipelineInv : Obligations.EveryStepKeepsPipelineInv :=
  fun s t control h hstep => (step_regsAfter s t hstep).pipelineInv control h

/-! ## R120, R133: `decode_token` -/

theorem packPairs_take : ∀ (t : List Byte) (k : Nat), (packPairs t).take k = packPairs (t.take (2 * k))
  | [], _ | _, 0 => by simp [packPairs]
  | [_], k + 1 => rfl
  | hi :: lo :: rest, k + 1 => by
    rw [show 2 * (k + 1) = 2 * k + 1 + 1 by omega]
    simp [packPairs, packPairs_take rest k]

theorem packPairs_drop : ∀ (t : List Byte) (k : Nat), (packPairs t).drop k = packPairs (t.drop (2 * k))
  | [], _ | _, 0 => by simp [packPairs]
  | [_], k + 1 => by simp [packPairs, Nat.mul_succ]
  | hi :: lo :: rest, k + 1 => by
    rw [show 2 * (k + 1) = 2 * k + 1 + 1 by omega]
    simp [packPairs, packPairs_drop rest k]

theorem decodeToken_of_error {token : List Byte} {e : ErrKind} (h : modhexDecode token = .error e)
    (pid uid key : List Byte) : decodeToken token pid uid key = .error e := by
  rw [decodeToken, h]

/-- Steps 2 to 9 of R120 under a 16-byte key: `decrypt_block` cannot fail. -/
theorem decodeToken_of_ok {token bs key : List Byte} (h : modhexDecode token = .ok bs) (hkey : key.length = 16)
    (pid uid : List Byte) :
    decodeToken token pid uid key =
      if bs.length ≠ 22 then .error .truncatedToken
      else if bs.take 6 ≠ pid then .error .unknownDevice
      else if (invCipher key (bs.drop 6)).take 6 ≠ uid then .error .identityMismatch
      else if crc16 (invCipher key (bs.drop 6)) ≠ Config.crcResidue then .error .integrityCheckFailed
      else .ok (parsePayload (invCipher key (bs.drop 6))) := by
  change _ = if bs.length ≠ Config.tokenBytes then _ else _
  simp only [decodeToken, h]
  by_cases hlen : bs.length = Config.tokenBytes
  · have count : (bs.drop 6).length = 16 := by rw [List.length_drop, hlen, Config.tokenBytes]
    have block : (bs.drop 6).take 16 = bs.drop 6 := List.take_of_length_le count.le
    have plain : (invCipher key (bs.drop 6)).take 16 = invCipher key (bs.drop 6) :=
      List.take_of_length_le (invCipher_length key _).le
    obtain ⟨-, -, contract⟩ := decryptBlockContract key (bs.drop 6)
    obtain ⟨decrypt, -⟩ := contract hkey count
    rw [block, decrypt]
    simp only [plain]
  · rw [if_pos hlen, if_pos hlen]

/-- Settles O16: an accepted text decodes to its packed pairs, 22 of them exactly for 44 characters. -/
theorem decodeTokenFirstFailingStep : Obligations.DecodeTokenFirstFailingStep := by
  intro token pid uid key hkey
  obtain ⟨he, hbad⟩ | ⟨hok, hall, heven⟩ := modhexDecode_cases token
  · rw [decodeToken_of_error he, if_pos (by simpa using hbad)]
  · have good : ¬((∃ ch ∈ token, inAlphabet ch = false) ∨ token.length % 2 = 1) := by
      simpa [heven] using hall
    have length : (packPairs token).length ≠ 22 ↔ token.length ≠ 44 := by rw [packPairs_length]; omega
    rw [decodeToken_of_ok hok hkey, if_neg good]
    simp only [length, packPairs_take, packPairs_drop]
    rfl

theorem decryptBlock_ne_unknownDevice (key ct : List Byte) : decryptBlock key ct ≠ .error .unknownDevice := by
  unfold decryptBlock
  split_ifs <;> simp

/-- `UnknownDevice` is decided before the key is used (R124, R133 item 1). -/
theorem decodeToken_eq_unknownDevice_iff (token pid uid key : List Byte) :
    decodeToken token pid uid key = .error .unknownDevice ↔
      ∃ bs, modhexDecode token = .ok bs ∧ bs.length = Config.tokenBytes ∧ bs.take 6 ≠ pid := by
  obtain ⟨he, -⟩ | ⟨hok, -, -⟩ := modhexDecode_cases token
  · simp [decodeToken_of_error he, he]
  · simp only [decodeToken, hok, Except.ok.injEq, exists_eq_left']
    by_cases hlen : (packPairs token).length = Config.tokenBytes
    · by_cases hpre : (packPairs token).take 6 = pid
      · have later := decryptBlock_ne_unknownDevice key (((packPairs token).drop 6).take 16)
        cases hd : decryptBlock key (((packPairs token).drop 6).take 16) with
        | error e => simpa [hlen, hpre, hd] using later
        | ok pt => simp only [hlen, hpre, ne_eq, not_true_eq_false, if_false, and_false, iff_false]; split_ifs <;> simp
      · simp [hlen, hpre]
    · simp [hlen]

/-- Settles O17: `decodeToken_eq_unknownDevice_iff` does not mention the key. -/
theorem unknownDeviceIgnoresKey : Obligations.UnknownDeviceIgnoresKey := by
  refine ⟨fun token pid uid key key' => ?_, fun token pid uid key bs hok hpre h => ?_⟩
  · rw [decodeToken_eq_unknownDevice_iff, decodeToken_eq_unknownDevice_iff]
  · obtain ⟨bs', hok', -, hne⟩ := (decodeToken_eq_unknownDevice_iff token pid uid key).mp h
    rw [hok] at hok'
    cases hok'
    exact hne hpre

/-- Texts of an even number of symbols with the same bytes are the same text (R83). -/
theorem packPairs_injective {t t' : List Byte} (hall : ∀ ch ∈ t, inAlphabet ch = true) (heven : t.length % 2 = 0)
    (hall' : ∀ ch ∈ t', inAlphabet ch = true) (heven' : t'.length % 2 = 0) (h : packPairs t = packPairs t') :
    t = t' := by
  rw [← modhexEncode_packPairs t hall heven, h, modhexEncode_packPairs t' hall' heven']

/-- Settles O18: another symbol in the first 12 characters makes other identity bytes: packing is injective on symbols. -/
theorem prefixCharacterFlipIsUnknownDevice : Obligations.PrefixCharacterFlipIsUnknownDevice := by
  intro token pid uid key k ch hlen hall hpre hk hch hne
  have hall' : ∀ c ∈ token.set k ch, inAlphabet c = true := fun c hc =>
    (List.mem_or_eq_of_mem_set hc).elim (hall c) fun h => h ▸ hch
  refine (decodeToken_eq_unknownDevice_iff _ _ _ _).mpr
    ⟨_, modhexDecode_eq_ok hall' (by simp [hlen]), by simp [packPairs_length, hlen, Config.tokenBytes],
      fun heq => hne ?_⟩
  rw [packPairs_take, ← hpre] at heq
  have same : (token.set k ch).take 12 = token.take 12 :=
    packPairs_injective (fun c hc => hall' c (List.mem_of_mem_take hc)) (by simp [hlen])
      (fun c hc => hall c (List.mem_of_mem_take hc)) (by simp [hlen]) heq
  have at_k := congrArg (fun t => t.getD k 0) same
  simpa [List.getD_eq_getElem?_getD, hk, hlen, show k < 44 by omega] using at_k

/-! ## Runs of the busy block -/

/-- With no turns listed, `k` steps take the registers `r` of a busy block to `q`, whatever the surroundings. -/
def BlockRun (k : Nat) (r q : Regs) : Prop :=
  ∀ s : State, s.turns = [] → runSteps k (s.withRegs r) = .next (s.withRegs q)

theorem BlockRun.trans {j k : Nat} {r r' q : Regs} (h : BlockRun j r r') (h' : BlockRun k r' q) :
    BlockRun (j + k) r q :=
  fun s ht => (runSteps_add_next j k _ _ (h s ht)).trans (h' s ht)

theorem step_eq_exec_of_busy {i : Instr} {s : State} (hp : s.phase ≠ .idle) (ht : s.turns = [])
    (hc : s.cmd = encode i) : step s = exec i s := by
  simp only [step, takeTurn, ht, if_neg hp, blockStep, hc, decode_encode]

/-- One phase of a running command (R144). -/
theorem TableRow.blockRun {i : Instr} {p : Phase} {body : Regs → Regs × Option ErrKind} {n : Next}
    (row : TableRow i p body n) {r q : Regs} (hp : r.phase = p) (hc : r.cmd = encode i)
    (hq : endPhase n (body r) = q) : BlockRun 1 r q := fun s ht => by
  have first : step (s.withRegs r) = .next (s.withRegs q) := by
    have busy : (s.withRegs r).phase ≠ .idle := hp.trans_ne row.phase_ne_idle
    rw [step_eq_exec_of_busy busy ht hc, row.exec hp hc, ← hq]
    rfl
  exact runSteps_succ_next 0 _ _ first

/-- With no turns listed, an idle block whose host writes a command's word to 0x00 starts the command, which then runs
on its own. -/
theorem runSteps_command {i : Instr} {s : State} {q : List HostOp} (hp : s.phase = .idle) (ht : s.turns = [])
    (hq : s.hostQueue = .write 0 1 (encode i).toNat :: q) {k : Nat} {r : Regs}
    (hrun : BlockRun k (started i s.toRegs) r) :
    runSteps (k + 1) s = .next { s with toRegs := r, hostQueue := q } := by
  have first := (step_eq_hostStep_of_idle hp ht).trans (hostStep_write_start hp hq (by omega))
  rw [BitVec.ofNat_toNat, BitVec.setWidth_eq] at first
  exact (runSteps_succ_next k s _ (first.trans (startWord_encode i hp))).trans (hrun { s with hostQueue := q } ht)

/-! ## R132: the run of `OTP`, and its end states -/

section
variable (r : Regs) (bs : List Byte)

/-- The registers of an `OTP` started in `r` when step 1 has decoded its token as `bs`. -/
def otpDecoded : Regs :=
  { started .otp r with phase := .pLen, buf := store (zeros 24) bs, buflen := BitVec.ofNat 5 bs.length }

/-- The same after step 3. -/
def otpSplit : Regs :=
  { otpDecoded r bs with phase := .pPrefix, ct := store (zeros 16) (slice (otpDecoded r bs).buf 6 16) }

/-- The same after step 5. -/
def otpDecrypted : Regs :=
  { otpSplit r bs with phase := .pUid, pt := store (zeros 16) (invCipher r.key.toList (bs.drop 6)) }

/-- The same after step 7. -/
def otpChecked : Regs := { otpDecrypted r bs with phase := .pParse, crc := crc16 (otpDecrypted r bs).pt.toList }

/-- The same after step 8. -/
def otpParsed : Regs := (phaseParse (otpChecked r bs)).1

/-- How an `OTP` started in `r` can end: the first failing step, or success (R132). -/
inductive OtpEnd : Regs → Prop where
  | badText : modhexDecode (tokenText r) = .error .invalidEncoding → OtpEnd (fail .invalidEncoding (started .otp r))
  | badLength (bs : List Byte) : modhexDecode (tokenText r) = .ok bs → bs.length ≠ 22 →
      OtpEnd (fail .truncatedToken (otpDecoded r bs))
  | badPrefix (bs : List Byte) : modhexDecode (tokenText r) = .ok bs → bs.length = 22 → bs.take 6 ≠ r.pid.toList →
      OtpEnd (fail .unknownDevice (otpSplit r bs))
  | badMarker (bs : List Byte) : modhexDecode (tokenText r) = .ok bs → bs.length = 22 → bs.take 6 = r.pid.toList →
      slice (otpDecrypted r bs).pt 0 6 ≠ r.uid.toList → OtpEnd (fail .identityMismatch (otpDecrypted r bs))
  | badCrc (bs : List Byte) : modhexDecode (tokenText r) = .ok bs → bs.length = 22 → bs.take 6 = r.pid.toList →
      slice (otpDecrypted r bs).pt 0 6 = r.uid.toList → crc16 (otpDecrypted r bs).pt.toList ≠ Config.crcResidue →
      OtpEnd (fail .integrityCheckFailed (otpChecked r bs))
  | success (bs : List Byte) : modhexDecode (tokenText r) = .ok bs → bs.length = 22 → bs.take 6 = r.pid.toList →
      slice (otpDecrypted r bs).pt 0 6 = r.uid.toList → crc16 (otpDecrypted r bs).pt.toList = Config.crcResidue →
      OtpEnd (complete (otpParsed r bs))

end

/-- A decoded token fits `BUF`, and its length fits `BUFLEN`. -/
theorem length_le_of_modhexDecode {r : Regs} {bs : List Byte} (h : modhexDecode (tokenText r) = .ok bs) :
    bs.length ≤ 24 := by
  have text := tokenText_length_le r
  obtain ⟨he, -⟩ | ⟨hok, -, -⟩ := modhexDecode_cases (tokenText r)
  · rw [he] at h; cases h
  · rw [hok] at h
    cases h
    rw [packPairs_length]
    omega

theorem toNat_otpDecoded_buflen {r : Regs} {bs : List Byte} (h : bs.length ≤ 24) :
    (otpDecoded r bs).buflen.toNat = bs.length := by
  rw [otpDecoded, BitVec.toNat_ofNat, Nat.mod_eq_of_lt (by omega)]

/-- A slice of a register that holds all of it is a slice of what was stored. -/
theorem slice_store_of_le {n : Nat} (v : Vector Byte n) {bs : List Byte} {a len : Nat} (h : bs.length ≤ n)
    (hin : a + len ≤ bs.length) : slice (store v bs) a len = (bs.drop a).take len := by
  rw [slice, store_toList, overwrite_eq_append (by simpa using h), List.drop_append_of_le_length (by omega),
    List.take_append_of_le_length (by rw [List.length_drop]; omega)]

section
variable {r : Regs} {bs : List Byte}

@[simp] theorem tokenText_started_otp : tokenText (started .otp r) = tokenText r := rfl

/-- `BUF[0..5]` of a token of 22 bytes (R123). -/
theorem slice_otpSplit_prefix (h : bs.length = 22) : slice (otpSplit r bs).buf 0 6 = bs.take 6 :=
  slice_store_of_le (zeros 24) (by omega) (by omega)

theorem slice_zero_eq_take {n : Nat} (v : Vector Byte n) (len : Nat) : slice v 0 len = v.toList.take len := rfl

/-- `CT` after step 3 is the payload of the token (R123). -/
theorem toList_otpSplit_ct (h : bs.length = 22) : (otpSplit r bs).ct.toList = bs.drop 6 := by
  have count : (bs.drop 6).length = 16 := by rw [List.length_drop]; omega
  calc (otpSplit r bs).ct.toList
      = slice (store (zeros 24) bs) 6 16 := store_toList_of_length _ _ (slice_length _ _ _)
    _ = (bs.drop 6).take 16 := slice_store_of_le (zeros 24) (by omega) (by omega)
    _ = bs.drop 6 := List.take_of_length_le count.le

/-- `PT` after step 5 is the payload's plaintext (R125). -/
theorem toList_otpDecrypted_pt : (otpDecrypted r bs).pt.toList = invCipher r.key.toList (bs.drop 6) :=
  store_toList_of_length _ _ (invCipher_length _ _)

/-! The run up to each of these records. -/

theorem blockRun_otpDecoded (h : modhexDecode (tokenText r) = .ok bs) :
    BlockRun 1 (started .otp r) (otpDecoded r bs) :=
  TableRow.otpMhdec.blockRun rfl rfl (congrArg _ (phaseMhdec_ok (by rwa [tokenText_started_otp])))

theorem blockRun_otpSplit (h : (otpDecoded r bs).buflen.toNat = 22) :
    BlockRun 2 (otpDecoded r bs) (otpSplit r bs) :=
  (TableRow.otpLen.blockRun rfl rfl (congrArg _ (phaseLen_pass h))).trans (TableRow.otpSplit.blockRun rfl rfl rfl)

theorem blockRun_otpDecrypted (hlen : bs.length = 22) (h : bs.take 6 = r.pid.toList) :
    BlockRun 2 (otpSplit r bs) (otpDecrypted r bs) := by
  refine (TableRow.otpPrefix.blockRun rfl rfl
    (congrArg _ (phasePrefix_pass ((slice_otpSplit_prefix hlen).trans h)))).trans
    (TableRow.otpAes.blockRun rfl rfl ?_)
  rw [phaseAes_eq, otpDecrypted, ← toList_otpSplit_ct (r := r) hlen]
  rfl

theorem blockRun_otpMarker (h : slice (otpDecrypted r bs).pt 0 6 = r.uid.toList) :
    BlockRun 1 (otpDecrypted r bs) { otpDecrypted r bs with phase := .pCrc } :=
  TableRow.otpUid.blockRun rfl rfl (congrArg _ (phaseUid_pass h))

end

/-- `OTP` runs from START to one of its ends in at most 8 block steps (R132, R143). -/
theorem exists_otpEnd (r : Regs) : ∃ k q, 1 ≤ k ∧ k ≤ 8 ∧ BlockRun k (started .otp r) q ∧ OtpEnd r q := by
  obtain ⟨hdec, -⟩ | ⟨hdec, -, -⟩ := modhexDecode_cases (tokenText r)
  · have run := TableRow.otpMhdec.blockRun (r := started .otp r) rfl rfl
      (congrArg _ (phaseMhdec_error (by rwa [tokenText_started_otp])))
    exact ⟨1, _, by omega, by omega, run, .badText hdec⟩
  generalize packPairs (tokenText r) = bs at hdec
  have decoded := blockRun_otpDecoded hdec
  have buflen := toNat_otpDecoded_buflen (r := r) (length_le_of_modhexDecode hdec)
  by_cases hlen : bs.length = 22
  case neg =>
    have run := TableRow.otpLen.blockRun rfl rfl (congrArg _ (phaseLen_fail (buflen.trans_ne hlen)))
    exact ⟨2, _, by omega, by omega, decoded.trans run, .badLength bs hdec hlen⟩
  have split := decoded.trans (blockRun_otpSplit (buflen.trans hlen))
  by_cases hpre : bs.take 6 = r.pid.toList
  case neg =>
    have run := TableRow.otpPrefix.blockRun (r := otpSplit r bs) rfl rfl
      (congrArg _ (phasePrefix_fail ((slice_otpSplit_prefix hlen).trans_ne hpre)))
    exact ⟨4, _, by omega, by omega, split.trans run, .badPrefix bs hdec hlen hpre⟩
  have decrypted := split.trans (blockRun_otpDecrypted hlen hpre)
  by_cases huid : slice (otpDecrypted r bs).pt 0 6 = r.uid.toList
  case neg =>
    have run := TableRow.otpUid.blockRun (r := otpDecrypted r bs) rfl rfl (congrArg _ (phaseUid_fail huid))
    exact ⟨6, _, by omega, by omega, decrypted.trans run, .badMarker bs hdec hlen hpre huid⟩
  have marked := decrypted.trans (blockRun_otpMarker huid)
  by_cases hcrc : crc16 (otpDecrypted r bs).pt.toList = Config.crcResidue
  case neg =>
    have run := TableRow.otpCrc.blockRun (r := { otpDecrypted r bs with phase := .pCrc }) rfl rfl
      (congrArg _ (phaseCrc_fail hcrc))
    exact ⟨7, _, by omega, by omega, marked.trans run, .badCrc bs hdec hlen hpre huid hcrc⟩
  have checked : BlockRun 7 (started .otp r) (otpChecked r bs) :=
    marked.trans (TableRow.otpCrc.blockRun rfl rfl (congrArg _ (phaseCrc_pass hcrc)))
  exact ⟨8, _, by omega, by omega, checked.trans (TableRow.otpParse.blockRun rfl rfl rfl),
    .success bs hdec hlen hpre huid hcrc⟩

/-- Every end is that of a completed command, with the operands of START (R132). -/
theorem OtpEnd.completed {r q : Regs} (h : OtpEnd r q) :
    q.phase = .idle ∧ q.done = true ∧ q.cmd = 0x01 ∧ q.tok = r.tok ∧ q.toklen = r.toklen ∧ q.pid = r.pid ∧
    q.uid = r.uid ∧ q.key = r.key := by
  have cmd : encode .otp = 0x01 := rfl
  cases h <;> simp [otpParsed, phaseParse, otpChecked, otpDecrypted, otpSplit, otpDecoded, started, clearOf, cmd]

/-- Every end shows the answer of `decode_token` on the operands at START (R120, R132). -/
theorem OtpEnd.refines {r q : Regs} (h : OtpEnd r q) :
    match decodeToken (tokenText r) r.pid.toList r.uid.toList r.key.toList with
    | .error e => q.ok = false ∧ q.err = some e ∧ q.uc = 0 ∧ q.sc = 0 ∧ q.ts = 0
    | .ok d => q.ok = true ∧ q.err = none ∧ q.uc = d.useCounter ∧ q.sc = d.sessionCounter ∧ q.ts = d.timestamp := by
  have answer {bs : List Byte} (hdec : modhexDecode (tokenText r) = .ok bs) :=
    decodeToken_of_ok hdec (show r.key.toList.length = 16 by simp) r.pid.toList r.uid.toList
  have plain (bs : List Byte) := toList_otpDecrypted_pt (r := r) (bs := bs)
  cases h with
  | badText hdec => rw [decodeToken_of_error hdec]; exact ⟨rfl, rfl, rfl, rfl, rfl⟩
  | badLength bs hdec hlen => rw [answer hdec, if_pos hlen]; exact ⟨rfl, rfl, rfl, rfl, rfl⟩
  | badPrefix bs hdec hlen hpre =>
    rw [answer hdec, if_neg (not_not.mpr hlen), if_pos hpre]
    exact ⟨rfl, rfl, rfl, rfl, rfl⟩
  | badMarker bs hdec hlen hpre huid =>
    rw [answer hdec, ← plain, ← slice_zero_eq_take, if_neg (not_not.mpr hlen), if_neg (not_not.mpr hpre), if_pos huid]
    exact ⟨rfl, rfl, rfl, rfl, rfl⟩
  | badCrc bs hdec hlen hpre huid hcrc =>
    rw [answer hdec, ← plain, ← slice_zero_eq_take, if_neg (not_not.mpr hlen), if_neg (not_not.mpr hpre),
      if_neg (not_not.mpr huid), if_pos hcrc]
    exact ⟨rfl, rfl, rfl, rfl, rfl⟩
  | success bs hdec hlen hpre huid hcrc =>
    rw [answer hdec, ← plain, ← slice_zero_eq_take, if_neg (not_not.mpr hlen), if_neg (not_not.mpr hpre),
      if_neg (not_not.mpr huid), if_neg (not_not.mpr hcrc)]
    exact ⟨rfl, rfl, rfl, rfl, rfl⟩

/-- Settles O36: `exists_otpEnd`, whose ends are the answers of `decode_token`. -/
theorem otpRefinesDecodeToken : Obligations.OtpRefinesDecodeToken := by
  intro s q hp ht hq _
  obtain ⟨k, r, hk1, hk8, hrun, hend⟩ := exists_otpEnd s.toRegs
  obtain ⟨hidle, hdone, -⟩ := hend.completed
  exact ⟨k, _, hk1, hk8, runSteps_command (i := .otp) hp ht hq hrun, hidle, hdone, rfl, hend.refines⟩

/-- Settles O37: the rows of the table are the ends of `exists_otpEnd`. -/
theorem otpEndStateTable : Obligations.OtpEndStateTable := by
  intro s q hp ht hq _
  obtain ⟨k, r, hk1, hk8, hrun, hend⟩ := exists_otpEnd s.toRegs
  obtain ⟨hidle, hdone, hcmd, htok, htoklen, hpid, huid, hkey⟩ := hend.completed
  refine ⟨k, _, hk1, hk8, runSteps_command (i := .otp) hp ht hq hrun, hidle, hdone, hcmd, htok, htoklen, hpid, huid,
    hkey, ?_⟩
  clear hpid huid hkey
  have buflen {bs : List Byte} (hdec : modhexDecode (tokenText s.toRegs) = .ok bs) :=
    toNat_otpDecoded_buflen (r := s.toRegs) (length_le_of_modhexDecode hdec)
  have ct (bs : List Byte) : (otpSplit s.toRegs bs).ct.toList = slice (otpDecoded s.toRegs bs).buf 6 16 :=
    store_toList_of_length _ _ (slice_length _ _ _)
  have plain (bs : List Byte) := toList_otpDecrypted_pt (r := s.toRegs) (bs := bs)
  cases hend with
  | badText hdec => rw [hdec]; exact ⟨rfl, rfl, rfl, rfl, rfl, rfl, rfl, rfl, rfl, rfl⟩
  | badLength bs hdec hlen =>
    rw [hdec]
    refine ⟨rfl, buflen hdec, (if_pos hlen).mpr ?_⟩
    exact ⟨rfl, rfl, rfl, rfl, rfl, rfl, rfl, rfl⟩
  | badPrefix bs hdec hlen hpre =>
    rw [hdec]
    refine ⟨rfl, buflen hdec, (if_neg (not_not.mpr hlen)).mpr ⟨ct bs, (if_pos hpre).mpr ?_⟩⟩
    exact ⟨rfl, rfl, rfl, rfl, rfl, rfl, rfl⟩
  | badMarker bs hdec hlen hpre huid =>
    rw [hdec]
    refine ⟨rfl, buflen hdec, (if_neg (not_not.mpr hlen)).mpr ⟨ct bs, (if_neg (not_not.mpr hpre)).mpr
      ⟨plain bs, (if_pos huid).mpr ?_⟩⟩⟩
    exact ⟨rfl, rfl, rfl, rfl, rfl, rfl⟩
  | badCrc bs hdec hlen hpre huid hcrc =>
    rw [hdec]
    refine ⟨rfl, buflen hdec, (if_neg (not_not.mpr hlen)).mpr ⟨ct bs, (if_neg (not_not.mpr hpre)).mpr
      ⟨plain bs, (if_neg (not_not.mpr huid)).mpr ⟨rfl, (if_pos hcrc).mpr ?_⟩⟩⟩⟩
    exact ⟨rfl, rfl, rfl, rfl, rfl⟩
  | success bs hdec hlen hpre huid hcrc =>
    rw [hdec]
    refine ⟨rfl, buflen hdec, (if_neg (not_not.mpr hlen)).mpr ⟨ct bs, (if_neg (not_not.mpr hpre)).mpr
      ⟨plain bs, (if_neg (not_not.mpr huid)).mpr ⟨rfl, (if_neg (not_not.mpr hcrc)).mpr ?_⟩⟩⟩⟩
    exact ⟨rfl, rfl, rfl, rfl, rfl⟩

/-- START of `OTP` leaves nothing of the registers but the five operands (R131, R19). -/
theorem started_otp_eq {r r' : Regs} (htok : r.tok = r'.tok) (htoklen : r.toklen = r'.toklen) (hpid : r.pid = r'.pid)
    (huid : r.uid = r'.uid) (hkey : r.key = r'.key) : started .otp r = started .otp r' := by
  cases r
  cases r'
  cases htok; cases htoklen; cases hpid; cases huid; cases hkey
  rfl

/-- Settles O38: both runs go through the same registers from START on. -/
theorem otpOutcomeDependsOnOperandsAlone : Obligations.OtpOutcomeDependsOnOperandsAlone := by
  intro s s' q q' hp hp' ht ht' hq hq' htok htoklen hpid huid hkey
  obtain ⟨k, r, -, hk8, hrun, hend⟩ := exists_otpEnd s.toRegs
  obtain ⟨hidle, hdone, -⟩ := hend.completed
  have hrun' : BlockRun k (started .otp s'.toRegs) r := started_otp_eq htok htoklen hpid huid hkey ▸ hrun
  exact ⟨k, _, _, hk8, runSteps_command (i := .otp) hp ht hq hrun, runSteps_command (i := .otp) hp' ht' hq' hrun',
    hidle, hdone, rfl⟩

end Sys2Proof.Machine

/-! The host's control of the block (44_host_control.md): the one-byte accesses (R140, R141), START (R142, R146), the
transition table (R143) and the progress of a running command (R144, R190). -/

namespace Sys2Proof.Machine

/-! ## R140: a read of one byte -/

/-- Settles O46: a read of one byte is `step_read_one`, busy or not. -/
theorem hostReadHasNoSideEffect : Obligations.HostReadHasNoSideEffect :=
  fun _ _ _ _ ht hq => step_read_one ht hq

/-! ## R142, R146: START -/

/-- The first step of an idle block's host that writes one byte to 0x00 is START of that byte (R141). -/
theorem hostStep_write_command {s : State} {w : Byte} {q : List HostOp} (hp : s.phase = .idle)
    (hq : s.hostQueue = .write 0 1 w.toNat :: q) : hostStep s = startWord w { s with hostQueue := q } := by
  rw [hostStep_write_start hp hq (by omega), BitVec.ofNat_toNat, BitVec.setWidth_eq]
  rfl

theorem startWord_of_decode {w : Byte} {i : Instr} (h : decode w = .ok i) (s : State) : startWord w s = exec i s := by
  simp only [startWord, h]

theorem blockStep_of_decode {s : State} {i : Instr} (hp : s.phase ≠ .idle) (h : decode s.cmd = .ok i) :
    blockStep s = exec i s := by
  simp only [blockStep, if_neg hp, h]

theorem step_eq_blockStep {s : State} {ts : List Turn} (ht : s.turns = .block :: ts) :
    step s = blockStep { s with turns := ts } := by
  simp only [step, takeTurn, ht]

theorem step_eq_blockStep_of_busy {s : State} (hp : s.phase ≠ .idle) (ht : s.turns = []) : step s = blockStep s := by
  simp only [step, takeTurn, ht, if_neg hp]

/-- Settles O20: an idle block's command comes from the host's write to 0x00, a busy block's from `CMD`. -/
theorem stepRunsDecodedInstruction : Obligations.StepRunsDecodedInstruction := by
  refine ⟨fun s w i q ts hp ht hq hd => ?_, fun s w i q hp ht hq hd => ?_, fun s i ts hp ht hd => ?_,
    fun s i hp ht hd => ?_⟩
  · rw [step_eq_hostStep ht, hostStep_write_command (s := { s with turns := ts }) hp hq, startWord_of_decode hd]
  · rw [step_eq_hostStep_of_idle hp ht, hostStep_write_command hp hq, startWord_of_decode hd]
  · rw [step_eq_blockStep ht]
    exact blockStep_of_decode (s := { s with turns := ts }) hp hd
  · rw [step_eq_blockStep_of_busy hp ht, blockStep_of_decode hp hd]

/-- On an idle block a reserved word changes `CMD` and the flags, and nothing else of the registers (R146). -/
theorem illegalCommand_of_idle {r : Regs} (hp : r.phase = .idle) (w : Byte) :
    illegalCommand w r = { r with cmd := w, done := true, ok := false, err := some .illegalCommand } := by
  simp only [illegalCommand, fail, hp]

/-- Settles O21: START by `exec_idle` for a command, by `startWord_reserved` for a reserved word. -/
theorem startClearsOutputsAndEntersFirstPhase : Obligations.StartClearsOutputsAndEntersFirstPhase := fun s hp =>
  ⟨fun _ => hostWriteByte_start hp, fun i => startWord_of_decode (decode_encode i) s, exec_idle .otp s hp,
    exec_idle .mhdec s hp, exec_idle .mhenc s hp, exec_idle .crc16 s hp, exec_idle .aesdec s hp, fun w hw => by
      rw [startWord_reserved hw, illegalCommand_of_idle hp]
      rfl⟩

/-- Settles O22: the write is START of a reserved word. -/
theorem reservedWordEndsAtOnce : Obligations.ReservedWordEndsAtOnce := by
  intro s w q ts hp ht hq hw
  rw [step_eq_hostStep ht, hostStep_write_command (s := { s with turns := ts }) hp hq, startWord_reserved hw,
    illegalCommand_of_idle hp]
  rfl

/-! ## R143: inside and outside the transition table -/

/-- `runsAt` names the pairs of the transition table: there a command's chain has a phase, elsewhere none (R143). -/
theorem isSome_chainOf (i : Instr) (p : Phase) : (chainOf i p).isSome = runsAt (encode i) p := by
  cases i <;> cases p <;> rfl

/-- A command other than the running one changes nothing (R49). -/
theorem exec_other {i : Instr} {s : State} (hp : s.phase ≠ .idle) (hc : s.cmd ≠ encode i) : exec i s = .next s := by
  rw [exec_eq_runCommand, runCommand, if_neg hp, if_neg hc]

/-- The running command at a phase outside its chain stops (notes/assumptions/6.md). -/
theorem exec_outside_chain {i : Instr} {s : State} (hp : s.phase ≠ .idle) (hc : s.cmd = encode i)
    (hf : chainOf i s.phase = none) : exec i s = .fault (.noTransition s.cmd s.phase) := by
  simp only [exec_eq_runCommand, runCommand, if_neg hp, if_pos hc, hf]

/-- Settles O23: by `isSome_chainOf` a pair that `runsAt` excludes is in no chain. -/
theorem execOutsideTheTransitionTable : Obligations.ExecOutsideTheTransitionTable := by
  intro i s hp
  refine ⟨exec_other hp, fun hc hr => exec_outside_chain hp hc ?_⟩
  rw [← Option.not_isSome_iff_eq_none, isSome_chainOf, ← hc, hr]
  exact nofun

/-- A pair that `runsAt` admits is a row of the table (R143). -/
theorem exists_row_of_runsAt {w : Byte} {p : Phase} (h : runsAt w p = true) :
    ∃ i body n, w = encode i ∧ TableRow i p body n := by
  cases p
  case idle => cases h
  case pMhdec =>
    obtain hw | hw := of_decide_eq_true h
    · exact ⟨.otp, _, _, hw, .otpMhdec⟩
    · exact ⟨.mhdec, _, _, hw, .mhdec⟩
  case pAes =>
    obtain hw | hw := of_decide_eq_true h
    · exact ⟨.otp, _, _, hw, .otpAes⟩
    · exact ⟨.aesdec, _, _, hw, .aesdec⟩
  case pLen => exact ⟨.otp, _, _, of_decide_eq_true h, .otpLen⟩
  case pSplit => exact ⟨.otp, _, _, of_decide_eq_true h, .otpSplit⟩
  case pPrefix => exact ⟨.otp, _, _, of_decide_eq_true h, .otpPrefix⟩
  case pUid => exact ⟨.otp, _, _, of_decide_eq_true h, .otpUid⟩
  case pCrc => exact ⟨.otp, _, _, of_decide_eq_true h, .otpCrc⟩
  case pParse => exact ⟨.otp, _, _, of_decide_eq_true h, .otpParse⟩
  case pMhenc => exact ⟨.mhenc, _, _, of_decide_eq_true h, .mhenc⟩
  case pCrcbuf => exact ⟨.crc16, _, _, of_decide_eq_true h, .crc16⟩

/-! ## R144, R190: the running command comes to its end -/

/-- The block's step at a row of the table runs the row's body (R144). -/
theorem TableRow.blockStep {i : Instr} {p : Phase} {body : Regs → Regs × Option ErrKind} {n : Next}
    (row : TableRow i p body n) {s : State} (hp : s.phase = p) (hc : s.cmd = encode i) :
    blockStep s = .next (s.withRegs (endPhase n (body s.toRegs))) := by
  rw [blockStep_of_decode (hp.trans_ne row.phase_ne_idle) (hc ▸ decode_encode i), row.exec hp hc]

/-- The phase a row leads to has fewer steps left than the row's own (R143). -/
theorem TableRow.stepsLeft_goto {i : Instr} {p p' : Phase} {body : Regs → Regs × Option ErrKind}
    (row : TableRow i p body (.goto p')) : stepsLeft (encode i) p' < stepsLeft (encode i) p := by
  cases row <;> decide

theorem TableRow.stepsLeft_pos {i : Instr} {p : Phase} {body : Regs → Regs × Option ErrKind} {n : Next}
    (row : TableRow i p body n) : 0 < stepsLeft (encode i) p := by
  cases row <;> decide

/-- Every phase, whether it fails or not, brings its command nearer the end (R144). -/
theorem TableRow.stepsLeft_lt {i : Instr} {p : Phase} {body : Regs → Regs × Option ErrKind} {n : Next}
    (row : TableRow i p body n) {r : Regs} (hc : r.cmd = encode i) :
    stepsLeft (endPhase n (body r)).cmd (endPhase n (body r)).phase < stepsLeft (encode i) p := by
  obtain ⟨e, -, heq⟩ | ⟨-, p', rfl, heq⟩ | ⟨-, -, heq⟩ := endPhase_cases n (body r) <;> rw [heq]
  · exact row.stepsLeft_pos
  · have hcmd : (body r).1.cmd = encode i := (row.sameFlags r).cmd.trans hc
    exact hcmd ▸ row.stepsLeft_goto
  · exact row.stepsLeft_pos

/-- What one block step makes of the registers of a running command. -/
structure BlockProgress (r q : Regs) : Prop where
  control : ControlInv q
  stepsLeft_lt : stepsLeft q.cmd q.phase < stepsLeft r.cmd r.phase
  done_of_idle : q.phase = .idle → q.done = true

theorem TableRow.blockProgress {i : Instr} {p : Phase} {body : Regs → Regs × Option ErrKind} {n : Next}
    (row : TableRow i p body n) {r : Regs} (h : ControlInv r) (hp : r.phase = p) (hc : r.cmd = encode i) :
    BlockProgress r (endPhase n (body r)) where
  control := row.controlInv h (hp.trans_ne row.phase_ne_idle) hc
  stepsLeft_lt := by rw [hp, hc]; exact row.stepsLeft_lt hc
  done_of_idle := fun hidle => by
    by_contra hd
    exact row.not_fresh r ⟨hidle, eq_false_of_ne_true hd⟩

/-- The step of a busy block that meets the invariants is a phase of its command (R25 item 3, R144). -/
theorem blockStep_busy {s : State} (h : ControlInv s.toRegs) (hp : s.phase ≠ .idle) :
    ∃ q, blockStep s = .next (s.withRegs q) ∧ BlockProgress s.toRegs q := by
  obtain ⟨-, -, -, hrun⟩ := h.busy_clear hp
  obtain ⟨i, body, n, hc, row⟩ := exists_row_of_runsAt hrun
  exact ⟨_, row.blockStep rfl hc, row.blockProgress h rfl hc⟩

theorem stepsLeft_le (w : Byte) (p : Phase) : stepsLeft w p ≤ 8 := by
  cases p
  case pMhdec | pAes => simp only [stepsLeft]; split <;> decide
  all_goals simp [stepsLeft]

/-- With no turns listed a busy block runs to the end of its command within the bound (R144 "always enabled"). -/
theorem exists_runSteps_idle {s : State} (h : ControlInv s.toRegs) (hp : s.phase ≠ .idle) (ht : s.turns = []) :
    ∃ k t, 1 ≤ k ∧ k ≤ stepsLeft s.cmd s.phase ∧ runSteps k s = .next t ∧ t.phase = .idle ∧ t.done = true := by
  induction hn : stepsLeft s.cmd s.phase using Nat.strong_induction_on generalizing s with
  | _ n ih =>
    obtain ⟨q, hstep, progress⟩ := blockStep_busy h hp
    have hlt : stepsLeft q.cmd q.phase < n := hn ▸ progress.stepsLeft_lt
    have first := (step_eq_blockStep_of_busy hp ht).trans hstep
    by_cases hq : q.phase = .idle
    · exact ⟨1, _, le_rfl, by omega, runSteps_succ_next 0 s _ first, hq, progress.done_of_idle hq⟩
    · obtain ⟨k, t, -, hk, hrun, hend⟩ := ih _ hlt (s := s.withRegs q) progress.control hq ht rfl
      exact ⟨k + 1, t, by omega, by omega, (runSteps_succ_next k s _ first).trans hrun, hend⟩

/-- Settles O58: each step is a row of the table, which leaves fewer steps, and a run ends by induction on the bound. -/
theorem everyCommandEnds : Obligations.EveryCommandEnds := by
  refine ⟨fun s ts h hp ht => ?_, fun s h hp ht => ?_, stepsLeft_le⟩
  · obtain ⟨q, hstep, progress⟩ := blockStep_busy (s := { s with turns := ts }) h hp
    exact ⟨_, (step_eq_blockStep ht).trans hstep, progress.stepsLeft_lt⟩
  · exact exists_runSteps_idle h hp ht

/-! ## R47, R143, R144: a safe state has a next state -/

/-- After a byte of the host's oldest access its queue is `q`, or what is left of the access and then `q`. -/
theorem inRange_rest {p : Prop} [Decidable p] {o : HostOp} {q : List HostOp} (hq : ∀ o ∈ q, o.inRange)
    (ho : ¬ p → o.inRange) : ∀ o' ∈ (if p then q else o :: q), o'.inRange := by
  split
  case isTrue => exact hq
  case isFalse hp => exact List.forall_mem_cons.mpr ⟨ho hp, hq⟩

/-- The step for a byte the host writes always answers a next state, with the host's queue as it was (R141). -/
theorem exists_hostWriteByte (a b : Byte) (s : State) :
    ∃ t, hostWriteByte a b s = .next t ∧ t.hostQueue = s.hostQueue := by
  obtain ⟨-, he⟩ | ⟨hp, -, he⟩ | ⟨-, -, he⟩ := hostWriteByte_cases a b s
  · exact ⟨_, he, rfl⟩
  · obtain ⟨i, -, hw⟩ | ⟨e, -, hw⟩ := startWord_cases b s
    · exact ⟨_, he.trans (hw.trans (exec_idle i s hp)), rfl⟩
    · exact ⟨_, he.trans hw, rfl⟩
  · exact ⟨_, he, rfl⟩

/-- A host whose accesses all have a meaning always has a step, which leaves it such (R47). -/
theorem exists_hostStep {s : State} (h : AccessesInRange s) : ∃ t, hostStep s = .next t ∧ AccessesInRange t := by
  cases hq : s.hostQueue with
  | nil => exact ⟨s, hostStep_nil hq, h⟩
  | cons o q =>
    obtain ⟨hok, hrest⟩ : o.inRange ∧ ∀ o ∈ q, o.inRange := List.forall_mem_cons.mp (hq ▸ h)
    cases o with
    | read addr n =>
      cases n with
      | zero => exact ⟨_, hostStep_no_bytes (v := 0) (.inl hq) hok, hrest⟩
      | succ k => exact ⟨_, hostStep_read hq hok, inRange_rest hrest (accessOk_rest addr k hok)⟩
    | write addr n v =>
      cases n with
      | zero => exact ⟨_, hostStep_no_bytes (.inr hq) hok, hrest⟩
      | succ k =>
        obtain ⟨t, ht, hqueue⟩ := exists_hostWriteByte (BitVec.ofNat 8 addr) (BitVec.ofNat 8 v)
          { s with hostQueue := restOfWrite addr k v q }
        refine ⟨t, (hostStep_write hq hok).trans ht, ?_⟩
        rw [AccessesInRange, hqueue]
        exact inRange_rest hrest (accessOk_rest addr k hok)
    | wait => exact ⟨_, hostStep_wait hq, inRange_rest hrest fun _ => hok⟩

/-- A block that meets the invariants always has a step, which leaves the host's accesses as they are (R144). -/
theorem exists_blockStep {s : State} (h : ControlInv s.toRegs) (hin : AccessesInRange s) :
    ∃ t, blockStep s = .next t ∧ AccessesInRange t := by
  by_cases hp : s.phase = .idle
  · exact ⟨s, if_pos hp, hin⟩
  · obtain ⟨q, hstep, -⟩ := blockStep_busy h hp
    exact ⟨_, hstep, hin⟩

/-- Settles O57: by whose turn it is; the host's accesses have a meaning, and the block's pair is in the table. -/
theorem safeStatesNeverStop : Obligations.SafeStatesNeverStop := by
  intro s h hin
  obtain ⟨ts, -, he⟩ | ⟨ts, -, he⟩ | ⟨ts, -, he⟩ | ⟨-, -, he⟩ | ⟨-, -, he⟩ := step_cases s <;> rw [he]
  · exact exists_hostStep (s := { s with turns := ts }) hin
  · exact exists_blockStep (s := { s with turns := ts }) h hin
  · exact ⟨_, rfl, hin⟩
  · exact exists_hostStep hin
  · exact exists_blockStep h hin

/-! ## R141: a byte stored in an idle block -/

theorem readByte_of_locate (r : Regs) {a : Byte} {g : Region} {i : Nat} (h : locate a = some (g, i)) :
    readByte r a = readReg r g.reg i := by
  simp only [readByte, h]

theorem writeByte_of_locate (r : Regs) {a : Byte} (b : Byte) {g : Region} {i : Nat} (h : locate a = some (g, i)) :
    writeByte r a b = writeReg r g.reg i b := by
  simp only [writeByte, h]

theorem locate_of_mem {a : Byte} {g : Region} (hg : g ∈ registerMap) (hlo : g.base ≤ a.toNat)
    (hhi : a.toNat < g.base + g.size) : locate a = some (g, a.toNat - g.base) := by
  have h := locate_region g hg (a.toNat - g.base) (by omega)
  rwa [Nat.add_sub_cancel' hlo, BitVec.ofNat_toNat, BitVec.setWidth_eq] at h

/-- How many bytes a register has in the map (R41). -/
def Reg.bytes (g : Reg) : Nat :=
  match g with
  | .cmd | .status | .phase | .toklen | .buflen | .sc => 1
  | .crc | .uc => 2
  | .ts => 4
  | .pid | .uid => 6
  | .key | .ct | .pt => 16
  | .buf => 24
  | .tok => 48

theorem size_eq_bytes : ∀ g ∈ registerMap, g.size = g.reg.bytes := by decide

/-- A register has one row in the map (R41). -/
theorem eq_of_reg_eq : ∀ g ∈ registerMap, ∀ g' ∈ registerMap, g.reg = g'.reg → g = g' := by decide

theorem cell_setCell_of_ne {n : Nat} (v : Vector Byte n) {i j : Nat} (b : Byte) (h : j ≠ i) :
    cell (setCell v i b) j = cell v j := by
  simp [cell, List.getD_eq_getElem?_getD, List.getElem?_set_ne h.symm]

/-- The bytes a register stores when the host writes them: any byte of an array, a length within its capacity (R42). -/
def Reg.Stores (g : Reg) (b : Byte) : Prop :=
  match g with
  | .toklen => b.toNat ≤ 48
  | .buflen => b.toNat ≤ 24
  | .pid | .uid | .key | .ct | .buf | .tok => True
  | .cmd | .status | .phase | .crc | .uc | .sc | .ts | .pt => False

theorem writeReg_of_not_stores (r : Regs) {g : Reg} (i : Nat) {b : Byte} (h : ¬ g.Stores b) : writeReg r g i b = r := by
  cases g
  case toklen | buflen => exact if_neg h
  case cmd | status | phase | crc | uc | sc | ts | pt => rfl
  all_goals exact absurd trivial h

theorem writeReg_toklen (r : Regs) (i : Nat) {b : Byte} (h : Reg.toklen.Stores b) :
    writeReg r .toklen i b = { r with toklen := b.setWidth 6 } :=
  if_pos h

theorem writeReg_buflen (r : Regs) (i : Nat) {b : Byte} (h : Reg.buflen.Stores b) :
    writeReg r .buflen i b = { r with buflen := b.setWidth 5 } :=
  if_pos h

/-- A byte that fits `w` bits survives being cut to them. -/
theorem setWidth_setWidth_of_lt {w : Nat} {b : Byte} (h : b.toNat < 2 ^ w) : (b.setWidth w).setWidth 8 = b := by
  apply BitVec.eq_of_toNat_eq
  rw [BitVec.toNat_setWidth, BitVec.toNat_setWidth, Nat.mod_eq_of_lt h, Nat.mod_eq_of_lt b.isLt]

/-- A stored byte reads back as written. -/
theorem readReg_writeReg_same (r : Regs) {g : Reg} {i : Nat} {b : Byte} (hi : i < g.bytes) (h : g.Stores b) :
    readReg (writeReg r g i b) g i = b := by
  cases g
  case cmd | status | phase | crc | uc | sc | ts | pt => exact False.elim h
  case toklen =>
    rw [writeReg_toklen r i h]
    exact setWidth_setWidth_of_lt (lt_of_le_of_lt h (by decide))
  case buflen =>
    rw [writeReg_buflen r i h]
    exact setWidth_setWidth_of_lt (lt_of_le_of_lt h (by decide))
  all_goals exact (cell_setCell _ i i b hi).trans (if_pos rfl)

/-- A byte stored in a register leaves the register's other bytes. -/
theorem readReg_writeReg_of_ne_index (r : Regs) {g : Reg} {i j : Nat} (b : Byte) (hi : i < g.bytes) (hj : j < g.bytes)
    (h : j ≠ i) : readReg (writeReg r g i b) g j = readReg r g j := by
  cases g
  case cmd | status | phase | crc | uc | sc | ts | pt => rfl
  case toklen | buflen => simp only [Reg.bytes] at hi hj; omega
  all_goals exact cell_setCell_of_ne _ b h

/-- A byte stored in a register leaves every other register, and so `STATUS`, which reads none of the stored ones. -/
theorem readReg_writeReg_of_ne_reg (r : Regs) {g g' : Reg} (i j : Nat) (b : Byte) (h : g' ≠ g) :
    readReg (writeReg r g i b) g' j = readReg r g' j := by
  by_cases hs : g.Stores b
  case neg => rw [writeReg_of_not_stores r i hs]
  -- What is stored is one field of the record: `g'` reads another one, or is `g` itself against `h`.
  cases g
  case cmd | status | phase | crc | uc | sc | ts | pt => rfl
  case toklen => rw [writeReg_toklen r i hs]; cases g' <;> trivial
  case buflen => rw [writeReg_buflen r i hs]; cases g' <;> trivial
  all_goals cases g' <;> trivial

/-- A byte the host stores leaves every other byte of the register space (R141). -/
theorem readByte_writeByte_of_ne (r : Regs) {a a' : Byte} (b : Byte) (h : a' ≠ a) :
    readByte (writeByte r a b) a' = readByte r a' := by
  cases hl : locate a with
  | none => rw [writeByte_of_locate_eq_none r b hl]
  | some gi =>
    obtain ⟨g, i⟩ := gi
    cases hl' : locate a' with
    | none => rw [readByte_of_locate_eq_none _ hl', readByte_of_locate_eq_none _ hl']
    | some gj =>
      obtain ⟨g', j⟩ := gj
      obtain ⟨hg, hi, ha⟩ := locate_inside a g i hl
      obtain ⟨hg', hj, ha'⟩ := locate_inside a' g' j hl'
      rw [writeByte_of_locate r b hl, readByte_of_locate _ hl', readByte_of_locate _ hl']
      by_cases hreg : g'.reg = g.reg
      · obtain rfl := eq_of_reg_eq g' hg' g hg hreg
        have hij : j ≠ i := by
          rintro rfl
          exact h (BitVec.eq_of_toNat_eq (ha'.trans ha.symm))
        rw [size_eq_bytes g' hg] at hi hj
        exact readReg_writeReg_of_ne_index r b hi hj hij
      · exact readReg_writeReg_of_ne_reg r i j b hreg

/-- The writes to an idle block that R141 stores: a byte in a writable row, a length within its capacity. -/
def StoredAt (a b : Byte) : Prop :=
  (a = 0x03 ∧ b.toNat ≤ 48) ∨ (a = 0x04 ∧ b.toNat ≤ 24) ∨ (0x08 ≤ a.toNat ∧ a.toNat ≤ 0x0D) ∨
    (0x10 ≤ a.toNat ∧ a.toNat ≤ 0x15) ∨ (0x30 ≤ a.toNat ∧ a.toNat ≤ 0x4F) ∨ (0x60 ≤ a.toNat ∧ a.toNat ≤ 0x77) ∨
    (0x80 ≤ a.toNat ∧ a.toNat ≤ 0xAF)

theorem storedAt_iff (a b : Byte) :
    StoredAt a b ↔ ∃ g ∈ registerMap, g.reg.Stores b ∧ g.base ≤ a.toNat ∧ a.toNat < g.base + g.size := by
  simp only [StoredAt, registerMap, List.cons_append, List.nil_append, List.exists_mem_cons_iff, List.not_mem_nil,
    false_and, exists_false, Reg.Stores, true_and, false_or, or_false, ← BitVec.toNat_inj, BitVec.ofNat_eq_ofNat,
    BitVec.toNat_ofNat]
  omega

theorem readByte_writeByte_same (r : Regs) {a b : Byte} (h : StoredAt a b) : readByte (writeByte r a b) a = b := by
  obtain ⟨g, hg, hs, hlo, hhi⟩ := (storedAt_iff a b).mp h
  have hl := locate_of_mem hg hlo hhi
  rw [writeByte_of_locate r b hl, readByte_of_locate _ hl]
  exact readReg_writeReg_same r (by rw [← size_eq_bytes g hg]; omega) hs

theorem writeByte_of_not_storedAt (r : Regs) {a b : Byte} (h : ¬ StoredAt a b) : writeByte r a b = r := by
  cases hl : locate a with
  | none => exact writeByte_of_locate_eq_none r b hl
  | some gi =>
    obtain ⟨g, i⟩ := gi
    obtain ⟨hg, hi, ha⟩ := locate_inside a g i hl
    rw [writeByte_of_locate r b hl]
    exact writeReg_of_not_stores r i fun hs => h ((storedAt_iff a b).mpr ⟨g, hg, hs, by omega, by omega⟩)

/-- Settles O44: the step is one `writeByte`, which stores exactly the bytes of `StoredAt` and leaves every other
byte of the space. -/
theorem hostWriteStoresOneByte : Obligations.HostWriteStoresOneByte := by
  intro s a b q ts hp ht hq ha
  have hok : accessOk a.toNat 1 := (accessOk_iff_of_pos _ 1 le_rfl).mpr a.isLt
  have hstep : step s = .next { s with toRegs := writeByte s.toRegs a b, hostQueue := q, turns := ts } := by
    have hne : a.toNat ≠ 0 := mt (BitVec.eq_of_toNat_eq (y := 0)) ha
    rw [step_eq_hostStep ht, hostStep_write_store (s := { s with turns := ts }) hp hq hok hne]
    simp [restOfWrite]
  refine ⟨_, hstep, rfl, rfl, fun a' h => readByte_writeByte_of_ne s.toRegs b h, ?_⟩
  split
  case isTrue h => exact readByte_writeByte_same s.toRegs h
  case isFalse h => exact writeByte_of_not_storedAt s.toRegs h

end Sys2Proof.Machine

/-! Errors and success (60_exceptions.md): what a command's end changes (R164, R165). -/

namespace Sys2Proof.Machine

/-- Settles O40: each side is the model's record update, which names the flags and `PHASE` alone, so both equations hold
by definition. -/
theorem failAndCompleteChangeFlagsOnly : Obligations.FailAndCompleteChangeFlagsOnly := by
  intro r
  constructor
  · intro e
    rfl
  · rfl

end Sys2Proof.Machine

/-! Reset and an idle block's turn (70_reset_and_hazards.md R180, R181; 44_host_control.md R144). -/

namespace Sys2Proof.Machine

theorem step_rst {s : State} {ts : List Turn} (ht : s.turns = .rst :: ts) :
    step s = .next (resetBlock { s with turns := ts }) := by
  simp only [step, takeTurn, ht]

theorem blockStep_of_idle {s : State} (hp : s.phase = .idle) : blockStep s = .next s := if_pos hp

/-- Settles O53: the turn of rst is `resetBlock` whatever the phase, and an idle block's turn is a `blockStep` that
answers the state it is given. -/
theorem resetAbandonsRunningCommand : Obligations.ResetAbandonsRunningCommand := by
  constructor
  · intro s ts ht
    exact ⟨_, step_rst ht, resetBlock_toRegs _, resetBlock_turns _, rfl, rfl, rfl⟩
  · intro s ts hp ht
    rw [step_eq_blockStep ht]
    exact blockStep_of_idle hp

end Sys2Proof.Machine
